-- ==== Sys2Proof/Word.lean ====
section
/-! DEFINITION. The word types of the block: the byte, the 32-bit memory address and the 32-bit DMA count
(00_scope.md rule R4, rows `ADDR_W`, `COUNT_W`, `WORD_LEN`). Arithmetic on them wraps and is unsigned
(00_scope.md section 6, 30_encoding.md rule R45). -/

namespace Sys2Proof

/-- A byte, `0 .. 255`; the unit of every transfer (20_memory.md rule R32). -/
abbrev Byte := BitVec 8

/-- An address of system memory `Mem`, `ADDR_W = 32` (20_memory.md rule R30). -/
abbrev Addr := BitVec 32

/-- A `u32` count, `COUNT_W = 32` (10_state.md rules R16, R19, R20). -/
abbrev Count := BitVec 32

end Sys2Proof
end

