-- ==== Sys2Proof/Config.lean ====
section
/-! DEFINITION. The parameters of the block (00_scope.md rule R4): the fixed ones as constants, the OPEN ones as the
fields of `Params`, "an argument the model takes". A machine's parameters are carried, unchanged by every step, in
`State.prm`, so a statement about every state is a statement about every choice of the parameters (log entry 1). -/

namespace Sys2Proof

/-- First start byte of a wire frame (30_encoding.md rule R40). -/
def startByte1 : Byte := 0xBC

/-- Second start byte of a wire frame (30_encoding.md rule R40). -/
def startByte2 : Byte := 0xCF

/-- `BYTEQ_CAP`, the capacity of the Byte Queue (rule R4; 10_state.md rule R18). -/
def byteqCap : Nat := 1024

/-- `RX_TIMEOUT_MS`; timing only, no rule reads it (rule R4; 70_reset_and_hazards.md rule R121). -/
def rxTimeoutMs : Nat := 1000

/-- `POLL_PERIOD_MS`; timing only, no rule reads it (rule R4; 70_reset_and_hazards.md rule R121). -/
def pollPeriodMs : Nat := 1

/-- `RX_ROUTE`: which receive path(s) see each received byte; `any` makes it a draw per byte
(rule R4; 42_transport_rx.md rule R70; 92_eei_decisions.md D9). -/
inductive RxRoute where
  | dmaOnly
  | irqOnly
  | both
  | any
  deriving DecidableEq, Repr

/-- `SEND_BEFORE_INIT`: what `SEND_PACKET` does before `INIT` (93_implementation_defined.md U1;
44_serializer_dispatch.md rule R91 corner case (b)). The default is `fault`. -/
inductive SendBeforeInit where
  | fault
  | noop
  deriving DecidableEq, Repr

/-- The OPEN and defaulted parameters of rule R4 (93_implementation_defined.md U20, U21, U1, U4, U19). -/
structure Params where
  /-- `MTU`, `0 <= MTU <= 255` by its type. -/
  mtu : Byte
  /-- `RXBUF_CAP`, `1 <= RXBUF_CAP <= 2^32 - 1`. -/
  rxbufCap : Count
  /-- `STAGE_CAP`, default `RXBUF_CAP`. -/
  stageCap : Nat
  /-- `POLL_MAX >= 1`. -/
  pollMax : Nat
  /-- `GROUP_MASK`. -/
  groupMask : Byte
  /-- `GROUP_RADIO`. -/
  groupRadio : Byte
  /-- `GROUP_PM`. -/
  groupPm : Byte
  /-- `GROUP_OW`. -/
  groupOw : Byte
  /-- `TXF_BASE`, `TXF_BASE + MTU + 6 <= 2^32`. -/
  txfBase : Addr
  /-- `NTASK`, at least 1. -/
  ntask : Nat
  /-- Which task is the framing task; "exactly one of them is the framing task". -/
  framingTask : Nat
  /-- `BAUD`, opaque: no rule reads it. -/
  baud : Nat
  /-- `FC_PAUSE_LEVEL`, default 1 (`true`). -/
  fcPauseLevel : Bool
  /-- `RX_ROUTE`, default `BOTH`. -/
  rxRoute : RxRoute
  /-- `SEND_BEFORE_INIT`, default `fault`. -/
  sendBeforeInit : SendBeforeInit
  deriving DecidableEq, Repr

/-- The constraints rule R4 puts on the parameters. -/
abbrev Params.Valid (P : Params) : Prop :=
  1 ≤ P.rxbufCap.toNat ∧ 1 ≤ P.pollMax ∧ P.framingTask < P.ntask ∧
  P.txfBase.toNat + P.mtu.toNat + 6 ≤ 2 ^ 32 ∧
  P.groupRadio ≠ P.groupPm ∧ P.groupRadio ≠ P.groupOw ∧ P.groupPm ≠ P.groupOw ∧
  P.groupRadio &&& P.groupMask = P.groupRadio ∧ P.groupPm &&& P.groupMask = P.groupPm ∧
  P.groupOw &&& P.groupMask = P.groupOw

/-- The parameter set `PV` of 95_test_vectors.md, which `State.reset` uses (log entry 1: PRESUMED; `MTU` and the group
values are G1's candidates, and the opaque `BAUD` is 1000000). -/
def Params.pv : Params where
  mtu := 64
  rxbufCap := 16
  stageCap := 16
  pollMax := 8
  groupMask := 0xF0
  groupRadio := 0x00
  groupPm := 0x10
  groupOw := 0x20
  txfBase := 0x1000
  ntask := 2
  framingTask := 0
  baud := 1000000
  fcPauseLevel := true
  rxRoute := .both
  sendBeforeInit := .fault

end Sys2Proof
end

