-- ==== Sys2Proof/Syntax.lean ====
section
/-! DEFINITION. The operations of the block as syntax: one constructor of `Instr` per row of spec/opcode_table.json
(00_scope.md rule R5, 30_encoding.md rule R49). The agent of a Task operation that any task may call is its operand
`t`; an operation only the framing task performs carries none (log entry 4). -/

namespace Sys2Proof

/-- A Packet value (44_serializer_dispatch.md): `data` has exactly `length` bytes (`Packet.wf` in WellFormed). -/
structure Packet where
  type : Byte
  length : Byte
  data : List Byte
  deriving DecidableEq, Repr

/-- A wire frame less its two start bytes (30_encoding.md rule R40), with whatever checksum bytes it carries. -/
structure Frame where
  type : Byte
  length : Byte
  data : List Byte
  cksum0 : Byte
  cksum1 : Byte
  deriving DecidableEq, Repr

/-- The two causes of `RX_COMPLETE_ISR` (42_transport_rx.md rule R74). -/
inductive RxCause where
  | tc
  | idle
  deriving DecidableEq, Repr

/-- The draw `r` of `RX_BYTE` under `RX_ROUTE = ANY` (42_transport_rx.md rule R70). -/
inductive RxDraw where
  | dma
  | irq
  | both
  deriving DecidableEq, Repr

/-- The kinds of `RX_ERROR` (42_transport_rx.md rule R71). -/
inductive LineError where
  | pe
  | fe
  | ne
  deriving DecidableEq, Repr

/-- The operations, in the order of spec/opcode_table.json. -/
inductive Instr where
  /-- `INIT`, rule R50. -/
  | init (t : Nat)
  /-- `SEND_LOW_RATE(bytes)`, rule R51. -/
  | sendLowRate (t : Nat) (bytes : List Byte)
  /-- `SEND_DMA(addr, size)`, rule R52. -/
  | sendDma (t : Nat) (addr : Addr) (size : Count)
  /-- `RECV_TIMEOUT(timeout)`, rule R75. -/
  | recvTimeout (t : Nat) (timeout : Nat)
  /-- `GET_AVAILABLE(max)`, rule R77. -/
  | getAvailable (t : Nat) (max : Nat)
  /-- `SEND_PACKET(p)`, rule R91. -/
  | sendPacket (t : Nat) (p : Packet)
  /-- `FRAMER_POLL`, rule R89. -/
  | framerPoll
  /-- `FEED(b)`, rule R80. -/
  | feed (b : Byte)
  /-- `DISPATCH(p)`, rule R93. -/
  | dispatch (p : Packet)
  /-- `RXNE_ISR`, rule R73. -/
  | rxneIsr
  /-- `RX_COMPLETE_ISR(cause)`, rule R74. -/
  | rxCompleteIsr (cause : RxCause)
  /-- `TX_TC_ISR`, rule R55. -/
  | txTcIsr
  /-- `FC_ISR`, rule R61. -/
  | fcIsr
  /-- `PAUSE_TX`, rule R62. -/
  | pauseTx
  /-- `RESUME_TX`, rule R63. -/
  | resumeTx
  /-- `TX_BEAT`, rule R53. -/
  | txBeat
  /-- `RX_BYTE(b)` with its draw `r`, rule R70. -/
  | rxByte (b : Byte) (r : RxDraw)
  /-- `RX_ERROR(kind, d)`, rule R71, with the draw `r` of the path updates. -/
  | rxError (kind : LineError) (d : Option Byte) (r : RxDraw)
  /-- `RX_IDLE`, rule R72. -/
  | rxIdle
  /-- `FC_EDGE(level)`, rule R60. -/
  | fcEdge (level : Bool)
  /-- `TX_EMPTY`, rule R54. -/
  | txEmpty
  /-- `TIMEOUT_EXPIRE(t)`, rule R76. -/
  | timeoutExpire (t : Nat)
  /-- `FEED.WaitStart1.sync`, rule R81; the byte is fixed. -/
  | feedWaitStart1Sync
  /-- `FEED.WaitStart1.other`, rule R81. -/
  | feedWaitStart1Other (b : Byte)
  /-- `FEED.WaitStart2.sync`, rule R82; the byte is fixed. -/
  | feedWaitStart2Sync
  /-- `FEED.WaitStart2.other`, rule R82. -/
  | feedWaitStart2Other (b : Byte)
  /-- `FEED.WaitType.any`, rule R83. -/
  | feedWaitTypeAny (b : Byte)
  /-- `FEED.WaitLength.oversize`, rule R84. -/
  | feedWaitLengthOversize (b : Byte)
  /-- `FEED.WaitLength.zero`, rule R84; the byte is fixed. -/
  | feedWaitLengthZero
  /-- `FEED.WaitLength.data`, rule R84. -/
  | feedWaitLengthData (b : Byte)
  /-- `FEED.WaitData.more`, rule R85. -/
  | feedWaitDataMore (b : Byte)
  /-- `FEED.WaitData.last`, rule R85. -/
  | feedWaitDataLast (b : Byte)
  /-- `FEED.WaitChecksum1.match`, rule R86. -/
  | feedWaitChecksum1Match (b : Byte)
  /-- `FEED.WaitChecksum1.mismatch`, rule R86. -/
  | feedWaitChecksum1Mismatch (b : Byte)
  /-- `FEED.WaitChecksum2.match`, rule R87. -/
  | feedWaitChecksum2Match (b : Byte)
  /-- `FEED.WaitChecksum2.mismatch`, rule R87. -/
  | feedWaitChecksum2Mismatch (b : Byte)
  /-- `FRAME`, rule R40: a whole wire frame taken in by the framer, byte by byte. -/
  | frame (f : Frame)
  /-- `SERIALIZE(p)`, rule R92: the frame build of the holder of `send_mutex`. -/
  | serialize (p : Packet)
  deriving DecidableEq, Repr

end Sys2Proof
end

