-- ==== Sys2Proof/WellFormed.lean ====
section
/-! DEFINITION. Which operations are well formed: a Packet and a Frame carry exactly `length` data bytes
(44_serializer_dispatch.md, 30_encoding.md rule R40), a row of the `FEED` table that stands after a fixed-byte row of
its state does not take that row's byte (30_encoding.md rule R49, "tried in the order listed within a state"), and the
number operands fit the four bytes the model's operation words give them (log entry 3). -/

namespace Sys2Proof

/-- "`data` (byte sequence of exactly `length` bytes)" (44_serializer_dispatch.md, Packet). -/
def Packet.wf (p : Packet) : Bool := p.data.length == p.length.toNat

/-- A frame carries `length` data bytes (30_encoding.md rule R40). -/
def Frame.wf (f : Frame) : Bool := f.data.length == f.length.toNat

/-- A number operand fits four bytes (log entry 3). -/
def fitsU32 (n : Nat) : Bool := decide (n < 2 ^ 32)

/-- The check every operation passes before it is encoded, and every decoded operation passes. -/
def Instr.wf (i : Instr) : Bool :=
  match i with
  | .init t => fitsU32 t
  | .sendLowRate t bytes => fitsU32 t && fitsU32 bytes.length
  | .sendDma t _ _ => fitsU32 t
  | .recvTimeout t timeout => fitsU32 t && fitsU32 timeout
  | .getAvailable t max => fitsU32 t && fitsU32 max
  | .sendPacket t p => fitsU32 t && p.wf
  | .framerPoll => true
  | .feed _ => true
  | .dispatch p => p.wf
  | .rxneIsr => true
  | .rxCompleteIsr _ => true
  | .txTcIsr => true
  | .fcIsr => true
  | .pauseTx => true
  | .resumeTx => true
  | .txBeat => true
  | .rxByte _ _ => true
  | .rxError _ _ _ => true
  | .rxIdle => true
  | .fcEdge _ => true
  | .txEmpty => true
  | .timeoutExpire t => fitsU32 t
  | .feedWaitStart1Sync => true
  | .feedWaitStart1Other b => b != startByte1
  | .feedWaitStart2Sync => true
  | .feedWaitStart2Other b => b != startByte2
  | .feedWaitTypeAny _ => true
  | .feedWaitLengthOversize _ => true
  | .feedWaitLengthZero => true
  | .feedWaitLengthData b => b != 0
  | .feedWaitDataMore _ => true
  | .feedWaitDataLast _ => true
  | .feedWaitChecksum1Match _ => true
  | .feedWaitChecksum1Mismatch _ => true
  | .feedWaitChecksum2Match _ => true
  | .feedWaitChecksum2Mismatch _ => true
  | .frame f => f.wf
  | .serialize p => p.wf

end Sys2Proof
end

