-- ==== Sys2Proof/Decode.lean ====
section
/-! DEFINITION. Operation words: the checksum and the wire frame (30_encoding.md rules R40 to R43), the OPID table
(rule R49), a decoder that is total on any bytes and rejects by name, and the encoder written from the same tables.

The table of spec/opcode_table.json has three formats. `OP` words begin with the OPID byte; `FEED` words begin with the
framer's input byte; `FRAME` words are wire frames, read by the receiver (`FRAME`) or written by the sender
(`SERIALIZE`). The spec gives OPIDs "used only as the key of `opcode_table.json`" and gives operands no bits; the operand
bytes after the first byte are the model's own (log entry 3). -/

namespace Sys2Proof

/-! ### Checksum and wire frame -/

/-- One fold of the two-stage checksum, `FOLD(b)` of rule R43: the second sum uses the new first sum. -/
def foldCk (c : Byte × Byte) (b : Byte) : Byte × Byte := (c.1 + b, c.2 + (c.1 + b))

/-- `(cksum0, cksum1)` over `type, length, data` (rule R43): both start at `type`. -/
def checksum (type length : Byte) (data : List Byte) : Byte × Byte := (length :: data).foldl foldCk (type, type)

/-- The bytes of a frame in sequence order (rule R40). -/
def Frame.bytes (f : Frame) : List Byte :=
  startByte1 :: startByte2 :: f.type :: f.length :: (f.data ++ [f.cksum0, f.cksum1])

/-- The frame of a packet, with the checksum of rule R43. -/
def Packet.frame (p : Packet) : Frame where
  type := p.type
  length := p.length
  data := p.data
  cksum0 := (checksum p.type p.length p.data).1
  cksum1 := (checksum p.type p.length p.data).2

/-- The packet a frame carries. -/
def Frame.packet (f : Frame) : Packet where
  type := f.type
  length := f.length
  data := f.data

/-- "a frame is well-formed iff both checksum bytes match recomputation over the same byte range" (rule R40). -/
def Frame.checksumOk (f : Frame) : Bool := checksum f.type f.length f.data == (f.cksum0, f.cksum1)

/-! ### Formats and rejections -/

/-- The `format` column of spec/opcode_table.json; its `FRAME` rows are told apart by their direction. -/
inductive Format where
  | op
  | feed
  | frameIn
  | frameOut
  deriving DecidableEq, Repr

/-- Why a word names no operation. -/
inductive DecodeError where
  /-- The word has no byte. -/
  | emptyWord
  /-- The word ends inside an operand. -/
  | truncated
  /-- "All other OPID values name no operation; the model refuses them" (rule R49). -/
  | unknownOpid (opid : Byte)
  /-- No `RX_COMPLETE_ISR` cause has this byte. -/
  | badCause (v : Byte)
  /-- No draw `r` has this byte. -/
  | badDraw (v : Byte)
  /-- No `RX_ERROR` kind has this byte. -/
  | badLineError (v : Byte)
  /-- The data flag of `RX_ERROR` is neither 0 nor 1. -/
  | badDataFlag (v : Byte)
  /-- A pin level is neither 0 nor 1. -/
  | badLevel (v : Byte)
  /-- No `FEED` row has this selector with this input byte. -/
  | badFeedRow (selector : Byte) (b : Byte)
  /-- The word does not begin with the two start bytes (rule R40). -/
  | notAFrame
  /-- The checksum bytes of a `SERIALIZE` word are not those of rule R43. -/
  | badChecksum
  deriving DecidableEq, Repr

/-- What the decoder answers: the operation and the bytes after its last, or a rejection. -/
abbrev Decoded := Except DecodeError (Instr × List Byte)

/-! ### Operand readers -/

/-- The first byte of `w`, then `k`. -/
def withByte (w : List Byte) (k : Byte → List Byte → Decoded) : Decoded :=
  match w with
  | b :: rest => k b rest
  | [] => .error .truncated

/-- A number operand: four bytes, least significant first (log entry 3). -/
def withU32 (w : List Byte) (k : Nat → List Byte → Decoded) : Decoded :=
  match w with
  | b0 :: b1 :: b2 :: b3 :: rest =>
    k (b0.toNat + 256 * (b1.toNat + 256 * (b2.toNat + 256 * b3.toNat))) rest
  | _ => .error .truncated

/-- The first `n` bytes of `w`, then `k`. -/
def withBytes (n : Nat) (w : List Byte) (k : List Byte → List Byte → Decoded) : Decoded :=
  if w.length < n then .error .truncated else k (w.take n) (w.drop n)

/-- A Packet operand: `type`, `length`, then `length` bytes. -/
def withPacket (w : List Byte) (k : Packet → List Byte → Decoded) : Decoded :=
  withByte w fun type w => withByte w fun length w =>
    withBytes length.toNat w fun data w => k { type := type, length := length, data := data } w

/-- A wire frame, read by the byte pattern of rule R40. -/
def withFrame (w : List Byte) (k : Frame → List Byte → Decoded) : Decoded :=
  withByte w fun s1 w => withByte w fun s2 w =>
    if s1 = startByte1 ∧ s2 = startByte2 then
      withByte w fun type w => withByte w fun length w =>
        withBytes length.toNat w fun data w => withByte w fun c0 w => withByte w fun c1 w =>
          k { type := type, length := length, data := data, cksum0 := c0, cksum1 := c1 } w
    else .error .notAFrame

/-- The cause operand of `RX_COMPLETE_ISR`. -/
def withCause (w : List Byte) (k : RxCause → List Byte → Decoded) : Decoded :=
  withByte w fun v w =>
    if v = 0 then k .tc w else if v = 1 then k .idle w else .error (.badCause v)

/-- The draw operand `r`. -/
def withDraw (w : List Byte) (k : RxDraw → List Byte → Decoded) : Decoded :=
  withByte w fun v w =>
    if v = 0 then k .dma w else if v = 1 then k .irq w else if v = 2 then k .both w else .error (.badDraw v)

/-- The kind operand of `RX_ERROR`. -/
def withLineError (w : List Byte) (k : LineError → List Byte → Decoded) : Decoded :=
  withByte w fun v w =>
    if v = 0 then k .pe w else if v = 1 then k .fe w else if v = 2 then k .ne w else .error (.badLineError v)

/-- The data draw `d` of `RX_ERROR`: a flag byte, then the byte if there is one. -/
def withDataDraw (w : List Byte) (k : Option Byte → List Byte → Decoded) : Decoded :=
  withByte w fun v w =>
    if v = 0 then k none w else if v = 1 then withByte w fun b w => k (some b) w else .error (.badDataFlag v)

/-- A pin level operand. -/
def withLevel (w : List Byte) (k : Bool → List Byte → Decoded) : Decoded :=
  withByte w fun v w =>
    if v = 0 then k false w else if v = 1 then k true w else .error (.badLevel v)

/-! ### The OPID table -/

/-- The operations that have an OPID. -/
inductive Opid where
  | init | sendLowRate | sendDma | recvTimeout | getAvailable | sendPacket | framerPoll | feed | dispatch
  | rxneIsr | rxCompleteIsr | txTcIsr | fcIsr | pauseTx | resumeTx
  | txBeat
  | rxByte | rxError | rxIdle | fcEdge | txEmpty | timeoutExpire
  deriving DecidableEq, Repr

/-- The OPID of each operation (30_encoding.md rule R49). -/
def Opid.code (o : Opid) : Byte :=
  match o with
  | .init => 0x01
  | .sendLowRate => 0x02
  | .sendDma => 0x03
  | .recvTimeout => 0x04
  | .getAvailable => 0x05
  | .sendPacket => 0x06
  | .framerPoll => 0x07
  | .feed => 0x08
  | .dispatch => 0x09
  | .rxneIsr => 0x20
  | .rxCompleteIsr => 0x21
  | .txTcIsr => 0x22
  | .fcIsr => 0x23
  | .pauseTx => 0x24
  | .resumeTx => 0x25
  | .txBeat => 0x30
  | .rxByte => 0x40
  | .rxError => 0x41
  | .rxIdle => 0x42
  | .fcEdge => 0x43
  | .txEmpty => 0x44
  | .timeoutExpire => 0x45

/-- Every operation with an OPID, in the order of rule R49. -/
def opids : List Opid :=
  [.init, .sendLowRate, .sendDma, .recvTimeout, .getAvailable, .sendPacket, .framerPoll, .feed, .dispatch,
   .rxneIsr, .rxCompleteIsr, .txTcIsr, .fcIsr, .pauseTx, .resumeTx, .txBeat,
   .rxByte, .rxError, .rxIdle, .fcEdge, .txEmpty, .timeoutExpire]

/-- The operation an OPID byte names, if any. -/
def opidOf (b : Byte) : Option Opid := opids.find? (fun o => o.code == b)

/-! ### The decoder -/

/-- The operands of each `OP` row, after its OPID byte. -/
def decodeOperands (o : Opid) (w : List Byte) : Decoded :=
  match o with
  | .init => withU32 w fun t w => .ok (.init t, w)
  | .sendLowRate => withU32 w fun t w => withU32 w fun n w => withBytes n w fun bytes w => .ok (.sendLowRate t bytes, w)
  | .sendDma => withU32 w fun t w => withU32 w fun addr w => withU32 w fun size w =>
      .ok (.sendDma t (BitVec.ofNat 32 addr) (BitVec.ofNat 32 size), w)
  | .recvTimeout => withU32 w fun t w => withU32 w fun timeout w => .ok (.recvTimeout t timeout, w)
  | .getAvailable => withU32 w fun t w => withU32 w fun max w => .ok (.getAvailable t max, w)
  | .sendPacket => withU32 w fun t w => withPacket w fun p w => .ok (.sendPacket t p, w)
  | .framerPoll => .ok (.framerPoll, w)
  | .feed => withByte w fun b w => .ok (.feed b, w)
  | .dispatch => withPacket w fun p w => .ok (.dispatch p, w)
  | .rxneIsr => .ok (.rxneIsr, w)
  | .rxCompleteIsr => withCause w fun cause w => .ok (.rxCompleteIsr cause, w)
  | .txTcIsr => .ok (.txTcIsr, w)
  | .fcIsr => .ok (.fcIsr, w)
  | .pauseTx => .ok (.pauseTx, w)
  | .resumeTx => .ok (.resumeTx, w)
  | .txBeat => .ok (.txBeat, w)
  | .rxByte => withByte w fun b w => withDraw w fun r w => .ok (.rxByte b r, w)
  | .rxError => withLineError w fun kind w => withDataDraw w fun d w => withDraw w fun r w => .ok (.rxError kind d r, w)
  | .rxIdle => .ok (.rxIdle, w)
  | .fcEdge => withLevel w fun level w => .ok (.fcEdge level, w)
  | .txEmpty => .ok (.txEmpty, w)
  | .timeoutExpire => withU32 w fun t w => .ok (.timeoutExpire t, w)

/-- An `OP` word: the OPID byte, then the operands. -/
def decodeOp (w : List Byte) : Decoded :=
  match w with
  | [] => .error .emptyWord
  | b :: rest =>
    match opidOf b with
    | some o => decodeOperands o rest
    | none => .error (.unknownOpid b)

/-- The `FEED` row with a selector and an input byte. Selector 0 takes the three rows whose byte the table fixes
(`0xBC`, `0xCF`, `0x00`); the others follow in the table's order (log entry 3). -/
def feedRow (selector b : Byte) : Except DecodeError Instr :=
  if selector = 0 then
    if b = startByte1 then .ok .feedWaitStart1Sync
    else if b = startByte2 then .ok .feedWaitStart2Sync
    else if b = 0 then .ok .feedWaitLengthZero
    else .error (.badFeedRow selector b)
  else if selector = 1 ∧ b ≠ startByte1 then .ok (.feedWaitStart1Other b)
  else if selector = 2 ∧ b ≠ startByte2 then .ok (.feedWaitStart2Other b)
  else if selector = 3 then .ok (.feedWaitTypeAny b)
  else if selector = 4 then .ok (.feedWaitLengthOversize b)
  else if selector = 5 ∧ b ≠ 0 then .ok (.feedWaitLengthData b)
  else if selector = 6 then .ok (.feedWaitDataMore b)
  else if selector = 7 then .ok (.feedWaitDataLast b)
  else if selector = 8 then .ok (.feedWaitChecksum1Match b)
  else if selector = 9 then .ok (.feedWaitChecksum1Mismatch b)
  else if selector = 10 then .ok (.feedWaitChecksum2Match b)
  else if selector = 11 then .ok (.feedWaitChecksum2Mismatch b)
  else .error (.badFeedRow selector b)

/-- A `FEED` word: the input byte, then the row selector. -/
def decodeFeed (w : List Byte) : Decoded :=
  withByte w fun b w => withByte w fun selector w =>
    match feedRow selector b with
    | .ok i => .ok (i, w)
    | .error e => .error e

/-- The decoder, total on any bytes of any format. -/
def decode (fmt : Format) (w : List Byte) : Decoded :=
  match fmt with
  | .op => decodeOp w
  | .feed => decodeFeed w
  | .frameIn => withFrame w fun f w => .ok (.frame f, w)
  | .frameOut => withFrame w fun f w =>
      if f.checksumOk then .ok (.serialize f.packet, w) else .error .badChecksum

/-! ### The encoder -/

/-- A number operand as four bytes, least significant first (log entry 3). -/
def u32Bytes (n : Nat) : List Byte :=
  [BitVec.ofNat 8 n, BitVec.ofNat 8 (n / 256), BitVec.ofNat 8 (n / 65536), BitVec.ofNat 8 (n / 16777216)]

/-- A Packet operand. -/
def packetBytes (p : Packet) : List Byte := p.type :: p.length :: p.data

/-- A cause operand. -/
def causeByte (c : RxCause) : Byte :=
  match c with
  | .tc => 0
  | .idle => 1

/-- A draw operand. -/
def drawByte (r : RxDraw) : Byte :=
  match r with
  | .dma => 0
  | .irq => 1
  | .both => 2

/-- A line error operand. -/
def lineErrorByte (e : LineError) : Byte :=
  match e with
  | .pe => 0
  | .fe => 1
  | .ne => 2

/-- A data draw operand. -/
def dataDrawBytes (d : Option Byte) : List Byte :=
  match d with
  | none => [0]
  | some b => [1, b]

/-- A level operand. -/
def levelByte (level : Bool) : Byte := if level then 1 else 0

/-- The format of each row of spec/opcode_table.json. -/
def Instr.format (i : Instr) : Format :=
  match i with
  | .init _ | .sendLowRate _ _ | .sendDma _ _ _ | .recvTimeout _ _ | .getAvailable _ _ | .sendPacket _ _ => .op
  | .framerPoll | .feed _ | .dispatch _ => .op
  | .rxneIsr | .rxCompleteIsr _ | .txTcIsr | .fcIsr | .pauseTx | .resumeTx | .txBeat => .op
  | .rxByte _ _ | .rxError _ _ _ | .rxIdle | .fcEdge _ | .txEmpty | .timeoutExpire _ => .op
  | .feedWaitStart1Sync | .feedWaitStart1Other _ | .feedWaitStart2Sync | .feedWaitStart2Other _ => .feed
  | .feedWaitTypeAny _ | .feedWaitLengthOversize _ | .feedWaitLengthZero | .feedWaitLengthData _ => .feed
  | .feedWaitDataMore _ | .feedWaitDataLast _ | .feedWaitChecksum1Match _ | .feedWaitChecksum1Mismatch _ => .feed
  | .feedWaitChecksum2Match _ | .feedWaitChecksum2Mismatch _ => .feed
  | .frame _ => .frameIn
  | .serialize _ => .frameOut

/-- The word of an operation, in its row's format. -/
def encode (i : Instr) : List Byte :=
  match i with
  | .init t => Opid.code .init :: u32Bytes t
  | .sendLowRate t bytes => Opid.code .sendLowRate :: (u32Bytes t ++ u32Bytes bytes.length ++ bytes)
  | .sendDma t addr size => Opid.code .sendDma :: (u32Bytes t ++ u32Bytes addr.toNat ++ u32Bytes size.toNat)
  | .recvTimeout t timeout => Opid.code .recvTimeout :: (u32Bytes t ++ u32Bytes timeout)
  | .getAvailable t max => Opid.code .getAvailable :: (u32Bytes t ++ u32Bytes max)
  | .sendPacket t p => Opid.code .sendPacket :: (u32Bytes t ++ packetBytes p)
  | .framerPoll => [Opid.code .framerPoll]
  | .feed b => [Opid.code .feed, b]
  | .dispatch p => Opid.code .dispatch :: packetBytes p
  | .rxneIsr => [Opid.code .rxneIsr]
  | .rxCompleteIsr cause => [Opid.code .rxCompleteIsr, causeByte cause]
  | .txTcIsr => [Opid.code .txTcIsr]
  | .fcIsr => [Opid.code .fcIsr]
  | .pauseTx => [Opid.code .pauseTx]
  | .resumeTx => [Opid.code .resumeTx]
  | .txBeat => [Opid.code .txBeat]
  | .rxByte b r => [Opid.code .rxByte, b, drawByte r]
  | .rxError kind d r => Opid.code .rxError :: lineErrorByte kind :: (dataDrawBytes d ++ [drawByte r])
  | .rxIdle => [Opid.code .rxIdle]
  | .fcEdge level => [Opid.code .fcEdge, levelByte level]
  | .txEmpty => [Opid.code .txEmpty]
  | .timeoutExpire t => Opid.code .timeoutExpire :: u32Bytes t
  | .feedWaitStart1Sync => [startByte1, 0]
  | .feedWaitStart1Other b => [b, 1]
  | .feedWaitStart2Sync => [startByte2, 0]
  | .feedWaitStart2Other b => [b, 2]
  | .feedWaitTypeAny b => [b, 3]
  | .feedWaitLengthOversize b => [b, 4]
  | .feedWaitLengthZero => [0, 0]
  | .feedWaitLengthData b => [b, 5]
  | .feedWaitDataMore b => [b, 6]
  | .feedWaitDataLast b => [b, 7]
  | .feedWaitChecksum1Match b => [b, 8]
  | .feedWaitChecksum1Mismatch b => [b, 9]
  | .feedWaitChecksum2Match b => [b, 10]
  | .feedWaitChecksum2Mismatch b => [b, 11]
  | .frame f => f.bytes
  | .serialize p => p.frame.bytes

/-! ### Words numbered as the table numbers them -/

/-- How many zero bytes follow the table's bits: more than the fixed part of the longest operation word
(`SEND_DMA`, 13 bytes) and than an empty wire frame (6 bytes). -/
def zeroTail : List Byte := List.replicate 16 0

/-- The bytes of a word whose bit 0 is the least significant bit of its first byte, then zeros. -/
def tableWordBytes (nbits w : Nat) : List Byte :=
  (List.range ((nbits + 7) / 8)).map (fun k => BitVec.ofNat 8 (w >>> (8 * k))) ++ zeroTail

/-- The format of a table word: an OPID byte begins an `OP` word, the two start bytes begin a `FRAME` word, and any
other word is a `FEED` row's input byte. The `OP` rows and the three `FEED` rows with fixed bits begin with different
bytes. -/
def tableFormat (w : List Byte) : Format :=
  match w with
  | [] => .op
  | [b] => if (opidOf b).isSome then .op else .feed
  | b :: b' :: _ =>
    if (opidOf b).isSome then .op
    else if b = startByte1 ∧ b' = startByte2 then .frameIn
    else .feed

/-- The operation the decoder reads from a table word (HOST INTERFACE). -/
def decodeTableWord (nbits w : Nat) : Option Instr :=
  match decode (tableFormat (tableWordBytes nbits w)) (tableWordBytes nbits w) with
  | .ok (i, _) => some i
  | .error _ => none

end Sys2Proof
end

