-- ==== Sys2Proof/Machine/State.lean ====
section
/-! DEFINITION. The architectural state (10_state.md rules R11 to R27, under the spec's own field names), the reasons a
step can stop, and the state after reset (70_reset_and_hazards.md rule R120). Three fields are the model's own and stand
last: the parameters, the offered steps and the returned results (log entries 1, 2, 5). -/

namespace Sys2Proof.Machine

/-- The state register of the framer (rule R23). -/
inductive FramerState where
  | waitStart1
  | waitStart2
  | waitType
  | waitLength
  | waitData
  | waitChecksum1
  | waitChecksum2
  deriving DecidableEq, Repr

/-- The line settings `INIT` writes (rule R12): 8 data bits, no parity, one stop bit; `unconfigured` is `none`. -/
structure LineConfig where
  baud : Nat
  word_len : Nat
  parity : Bool
  stop_bits : Nat
  deriving DecidableEq, Repr

/-- A lock (rule R22): `free`, or held by a task. -/
inductive Lock where
  | free
  | held (t : Nat)
  deriving DecidableEq, Repr

/-- The codes of the fault register with the value each records (60_exceptions.md rule R102). These are the block's
own sticky faults, held in `State.fault`; a step that raises one answers a next state. -/
inductive FaultCode where
  /-- Code 1: `SEND_PACKET` with `p.length > MTU`; records `p.length`. -/
  | assertMtu (length : Byte)
  /-- Code 2: `SEND_PACKET` before `INIT`. -/
  | sendNotReady
  /-- Code 3: a byte offered to the exhausted receive stream; records the byte. -/
  | rxDmaOverrun (b : Byte)
  /-- Code 4: the hand-off stage cannot take the valid bytes; records `len(stage)` and `n`. -/
  | rxStageOverflow (stageLen n : Nat)
  deriving DecidableEq, Repr

/-- The number of a fault code (rule R102). -/
def FaultCode.number (c : FaultCode) : Nat :=
  match c with
  | .assertMtu _ => 1
  | .sendNotReady => 2
  | .rxDmaOverrun _ => 3
  | .rxStageOverflow _ _ => 4

/-- The phases of `SEND_DMA` after its entry (40_transport_tx.md rule R52). -/
inductive DmaPhase where
  | a
  | c
  | d
  | e
  deriving DecidableEq, Repr

/-- The phases of `SEND_PACKET` after its entry `V` (44_serializer_dispatch.md rule R91). `dma0` is the entry of
`SEND_DMA`, passed as a phase of its own only when the block is not ready (`SEND_BEFORE_INIT = noop`; log entry 16). -/
inductive SendPhase where
  | m
  | s
  | dma0
  | a
  | c
  | d
  | e
  | z
  deriving DecidableEq, Repr

/-- `task[t]` (rule R27): idle, or inside an operation with its next phase and its locals. -/
inductive TaskState where
  | idle
  | sendLowRate (bytes : List Byte) (i : Nat)
  | sendDma (addr : Addr) (size : Count) (phase : DmaPhase)
  | sendPacket (p : Packet) (phase : SendPhase)
  | recvTimeout
  deriving DecidableEq, Repr

/-- The dispatch handlers (rule R25). -/
inductive Handler where
  | radio
  | pm
  | ow
  deriving DecidableEq, Repr

/-- An entry of `diag_log` (rule R25). -/
inductive Diag where
  | unknownGroup (p : Packet)
  | rxCheck (n : Nat)
  deriving DecidableEq, Repr

/-- What an operation returns to its caller (rules R52, R75, R77, R91). -/
inductive Result where
  /-- `SEND_DMA`: `completed`. -/
  | completed
  /-- `SEND_DMA`: `driver_absent`. -/
  | driverAbsent
  /-- `SEND_PACKET`: `OK`. -/
  | ok
  /-- `RECV_TIMEOUT`: `(true, b)`. -/
  | found (b : Byte)
  /-- `RECV_TIMEOUT`: `(false, -)`. -/
  | notFound
  /-- `GET_AVAILABLE`: `(k, out)` with `k = len(out)`. -/
  | available (out : List Byte)
  deriving DecidableEq, Repr

/-- A step offered to the block: an operation word, the next phase of the operation task `t` is inside, or a write of
the host to its own memory (20_memory.md rule R30). Which step runs next is not fixed (00_scope.md rule R6), so the
order stands in the state as data (log entry 2). -/
inductive Event where
  | op (fmt : Format) (word : List Byte)
  | proceed (t : Nat)
  | hostWrite (addr : Addr) (v : Byte)
  deriving DecidableEq, Repr

/-- System memory: address and byte pairs, canonical by `Memory.Wf` (Machine/Memory.lean). -/
abbrev Memory := List Host.Cell

/-- The state of the block (rule R10). -/
structure State where
  ready : Bool
  cfg : Option LineConfig
  rdr : Byte
  rxne : Bool
  idle : Bool
  pe : Bool
  fe : Bool
  ne : Bool
  ore : Bool
  txe : Bool
  armed : Bool
  fc_pend : Bool
  rx_en : Bool
  rx_remaining : Count
  rx_tcif : Bool
  rx_buf : List Byte
  rx_done : Bool
  stage : List Byte
  byteq : List Byte
  tx_en : Bool
  tx_ptr : Addr
  tx_count : Count
  tx_tcie : Bool
  tx_tcif : Bool
  tx_base : Addr
  tx_size : Count
  is_paused : Bool
  initial_count : Count
  remaining_count : Count
  fc_level : Bool
  tx_lock : Lock
  tx_done : Bool
  send_mutex : Lock
  fs : FramerState
  f_type : Byte
  f_length : Byte
  f_data : List Byte
  f_idx : Nat
  f_ck0 : Byte
  f_ck1 : Byte
  /-- `Mem`, with `txf` at `TXF_BASE .. TXF_BASE + MTU + 5` (rules R24, R30). -/
  mem : Memory
  wire_tx : List Byte
  dispatch_log : List (Handler × Packet)
  diag_log : List Diag
  fault : Option FaultCode
  task : List TaskState
  /-- The parameters of rule R4; no step changes them (log entry 1). -/
  prm : Params
  /-- The steps offered, next one first (log entry 2). -/
  sched : List Event
  /-- The results returned to callers, in order: an output, read by no rule (log entry 5). -/
  ret : List (Nat × Result)
  deriving DecidableEq, Repr

/-- The arrays of the block, for `Fault.indexOutOfBounds`. -/
inductive ArrayName where
  | rxBuf
  | fData
  | sendBytes
  deriving DecidableEq, Repr

/-- Where the model itself stops. Safe: "an index outside the array's bounds never occurs in a rule" (00_scope.md
section 6), so no run from reset reaches it; it stands for states that no run reaches (log entry 15). -/
inductive Fault where
  /-- An access outside an array: raised by `RX_BYTE`, `RX_ERROR`, `RX_COMPLETE_ISR` (`rx_buf`), by `FEED` and the
  operations made of it (`f_data`), by `SEND_LOW_RATE` (`bytes`). Safe. -/
  | indexOutOfBounds (a : ArrayName)
  deriving DecidableEq, Repr

/-- The runs the spec gives no meaning (60_exceptions.md rule R103), and words that name no operation. All safe. -/
inductive Refusal where
  /-- An instruction without a meaning in `exec`; raised by no arm. -/
  | notModelled (mnemonic : String)
  /-- A word outside the operation table (93_implementation_defined.md U12); raised by the step. Safe. -/
  | undecodable (e : DecodeError)
  /-- An agent `Task(t)` with `t >= NTASK` (00_scope.md rule R5); raised by every Task operation. Safe. -/
  | noSuchTask (t : Nat)
  /-- A second `INIT` (U8); raised by `INIT`. Safe. -/
  | secondInit
  /-- `SEND_DMA` with `size = 0` (U9). Safe. -/
  | emptyTransfer
  /-- `SEND_DMA` with `addr + size > 2^32` (U10). Safe. -/
  | wrappingTransfer
  /-- `GET_AVAILABLE` from a task other than the framing task (U7). Safe. -/
  | notFramingTask (t : Nat)
  /-- A value that is not a Packet (44_serializer_dispatch.md rule R91 corner case (e)); raised by `SEND_PACKET` and
  `DISPATCH`. Safe. -/
  | notAPacket
  /-- A host write to a transmit buffer in flight (U11). Safe. -/
  | bufferInFlight (addr : Addr)
  /-- A host write to `txf`, which is "written only by `SEND_PACKET` phase S" (10_state.md rule R24; log
  entry 14). Safe. -/
  | frameBufferWrite (addr : Addr)
  deriving DecidableEq, Repr

/-- The state after reset for given parameters and a given initial level of the flow-control pin (`FC_INIT`), rule
R120. The registers and buffers rule R120 leaves unspecified hold zero (log entry 6: DESIGN CHOICE). -/
def State.resetWith (P : Params) (fcInit : Bool) : State where
  ready := false
  cfg := none
  rdr := 0
  rxne := false
  idle := false
  pe := false
  fe := false
  ne := false
  ore := false
  txe := true
  armed := false
  fc_pend := false
  rx_en := false
  rx_remaining := 0
  rx_tcif := false
  rx_buf := List.replicate P.rxbufCap.toNat 0
  rx_done := false
  stage := []
  byteq := []
  tx_en := false
  tx_ptr := 0
  tx_count := 0
  tx_tcie := false
  tx_tcif := false
  tx_base := 0
  tx_size := 0
  is_paused := false
  initial_count := 0
  remaining_count := 0
  fc_level := fcInit
  tx_lock := .free
  tx_done := false
  send_mutex := .free
  fs := .waitStart1
  f_type := 0
  f_length := 0
  f_data := List.replicate P.mtu.toNat 0
  f_idx := 0
  f_ck0 := 0
  f_ck1 := 0
  mem := []
  wire_tx := []
  dispatch_log := []
  diag_log := []
  fault := none
  task := List.replicate P.ntask .idle
  prm := P
  sched := []
  ret := []

/-- The machine right after reset: rule R120 with the parameter set of 95_test_vectors.md (`PV`, `FC_INIT = 0`), log
entry 1. -/
def State.reset : State := State.resetWith Params.pv false

end Sys2Proof.Machine
end

