-- ==== Sys2Proof/Machine/Memory.lean ====
section
/-! DEFINITION. System memory `Mem` (20_memory.md rules R30, R33, R34): one-byte reads and writes, total on every 32-bit
address. It is held as a list of address and byte pairs in one canonical form. -/

namespace Sys2Proof.Machine

/-- What an address nothing has written reads as (log entry 7: DESIGN CHOICE). -/
def unlistedByte : Byte := 0

/-- `MemRead(a, 1)`, rule R30. -/
def Memory.read (m : Memory) (a : Addr) : Byte :=
  match m.find? (fun c => c.1 == a.toNat) with
  | some c => c.2
  | none => unlistedByte

/-- The cells of `m` with `n` holding `v`; in the canonical form, the value of an unlisted address is not listed. -/
def Memory.put (m : Memory) (n : Nat) (v : Byte) : Memory :=
  match m with
  | [] => if v = unlistedByte then [] else [(n, v)]
  | c :: rest =>
    if c.1 < n then c :: Memory.put rest n v
    else
      let tail := if c.1 = n then rest else c :: rest
      if v = unlistedByte then tail else (n, v) :: tail

/-- `MemWrite(a, 1, v)`, rule R30. -/
def Memory.write (m : Memory) (a : Addr) (v : Byte) : Memory := m.put a.toNat v

/-- One-byte writes at ascending addresses from `a`, modulo `2^32`. -/
def Memory.writeBytes (m : Memory) (a : Addr) (bs : List Byte) : Memory :=
  match bs with
  | [] => m
  | b :: rest => Memory.writeBytes (m.write a b) (a + 1) rest

/-- `Mem[a .. a + n)`, in ascending order, modulo `2^32`. -/
def Memory.slice (m : Memory) (a : Addr) (n : Nat) : List Byte :=
  (List.range n).map (fun k => m.read (a + BitVec.ofNat 32 k))

/-- The canonical form: addresses strictly rising and inside the address space, and no cell equal to what an unlisted
address reads as. -/
abbrev Memory.Wf (m : Memory) : Prop :=
  m.Pairwise (fun c d => c.1 < d.1) ∧ ∀ c ∈ m, c.1 < 2 ^ 32 ∧ c.2 ≠ unlistedByte

end Sys2Proof.Machine
end

