-- ==== Sys2Proof/Machine/Operands.lean ====
section
/-! DEFINITION. The derived operands of 30_encoding.md rule R44 and the checked array accesses. -/

namespace Sys2Proof.Machine

/-- Group tag: `type & GROUP_MASK` (rule R44). -/
def groupTag (P : Params) (type : Byte) : Byte := type &&& P.groupMask

/-- Frame size: `length + 6` (rule R44). -/
def frameSize (p : Packet) : Count := BitVec.ofNat 32 (p.length.toNat + 6)

/-- Receive valid count: `RXBUF_CAP - rx_remaining` (rule R44); also the index of the next store. -/
def State.rxValid (s : State) : Nat := (s.prm.rxbufCap - s.rx_remaining).toNat

/-- Resume pointer: `tx_base +32 (initial_count - remaining_count)` (rule R44). -/
def State.resumePtr (s : State) : Addr := s.tx_base + (s.initial_count - s.remaining_count)

/-- `addr + size > 2^32` (93_implementation_defined.md U10). -/
def rangeWraps (addr : Addr) (size : Count) : Bool := decide (2 ^ 32 < addr.toNat + size.toNat)

/-- Whether `a` lies in `addr .. addr + size - 1`. -/
def inRange (addr : Addr) (size : Nat) (a : Addr) : Bool :=
  decide (addr.toNat ≤ a.toNat) && decide (a.toNat < addr.toNat + size)

/-- Whether `a` is an address of `txf` (10_state.md rule R24). -/
def inFrameBuffer (P : Params) (a : Addr) : Bool := inRange P.txfBase (P.mtu.toNat + 6) a

/-- `xs[i] <- v`, if `i` is inside the array (00_scope.md section 6). -/
def storeAt (xs : List Byte) (i : Nat) (v : Byte) : Option (List Byte) :=
  if i < xs.length then some (xs.set i v) else none

/-- `[xs[0], ..., xs[n-1]]`, if all are inside the array. -/
def readPrefix (xs : List Byte) (n : Nat) : Option (List Byte) :=
  if n ≤ xs.length then some (xs.take n) else none

end Sys2Proof.Machine
end

