-- ==== Sys2Proof/Machine/Flags.lean ====
section
/-! DEFINITION. The conditions computed from the flags: the five pending conditions (10_state.md rule R15,
60_exceptions.md rule R104), the enabling of interrupt service steps (rule R105), and the receive routing (42_transport_rx.md
rule R70). -/

namespace Sys2Proof.Machine

/-- The RX-not-empty source, which also carries the UART error flags (rule R104, source 1). -/
def State.rxnePending (s : State) : Bool := s.rxne || s.pe || s.fe || s.ne || s.ore

/-- The idle-line source and the receive transfer-complete source (rule R104, sources 2 and 3). -/
def State.rxCompletePending (s : State) (cause : RxCause) : Bool :=
  match cause with
  | .tc => s.rx_tcif
  | .idle => s.idle

/-- The transmit transfer-complete source (rule R104, source 4). -/
def State.txTcPending (s : State) : Bool := s.tx_tcif && s.tx_tcie

/-- The flow-control edge source (rule R104, source 5). -/
def State.fcPending (s : State) : Bool := s.fc_pend

/-- "A service step is enabled iff `s.armed`, its pending condition holds and `s.fault = none`" (rule R105). -/
def State.serviceEnabled (s : State) (pending : Bool) : Bool := s.fault.isNone && s.armed && pending

/-- `tx_en` and `txe`: the condition of `TX_BEAT` (40_transport_tx.md rule R53). -/
def State.beatEnabled (s : State) : Bool := s.tx_en && s.txe

/-- The pin asks for a pause (41_flow_control.md rule R61). -/
def State.pauseLevel (s : State) : Bool := s.fc_level == s.prm.fcPauseLevel

/-- `irq_sees` (rule R70). -/
def irqSees (route : RxRoute) (r : RxDraw) : Bool :=
  match route with
  | .irqOnly => true
  | .both => true
  | .dmaOnly => false
  | .any => r == .irq || r == .both

/-- `dma_sees` (rule R70). -/
def dmaSees (route : RxRoute) (r : RxDraw) : Bool :=
  match route with
  | .dmaOnly => true
  | .both => true
  | .irqOnly => false
  | .any => r == .dma || r == .both

end Sys2Proof.Machine
end

