-- ==== Sys2Proof/Machine/Ops.lean ====
section
/-! DEFINITION. The operations shared by the meanings: raising a fault (60_exceptions.md rule R101), the guards of the four
kinds of step (00_scope.md rule R6), and the locks and rendezvous of 10_state.md rule R22. -/

namespace Sys2Proof.Machine

/-- What a meaning answers. -/
abbrev Out := Host.Outcome State Fault Refusal

/-- `raise Fault(code)`: "sets `s.fault <- some(code)` and changes nothing else" (rule R101). There is no handler and no
return (rule R107): the state is frozen from then on. -/
def State.raiseFault (s : State) (c : FaultCode) : State := { s with fault := some c }

/-- A step that is not enabled is not taken: the agent waits, which is not an error (00_scope.md rule R6), and the state
stays as it is (log entry 8). -/
def waits (s : State) : Out := .next s

/-- One outcome after another. -/
def andThen (o : Out) (k : State → Out) : Out :=
  match o with
  | .next s => k s
  | .fault r => .fault r
  | .refused r => .refused r

/-- `task[t] <- ts`. -/
def State.setTask (s : State) (t : Nat) (ts : TaskState) : State := { s with task := s.task.set t ts }

/-- Task `t` is given a result. -/
def State.report (s : State) (t : Nat) (r : Result) : State := { s with ret := s.ret ++ [(t, r)] }

/-- Task `t` returns from its operation with a result and becomes idle. -/
def State.finish (s : State) (t : Nat) (r : Result) : State := (s.setTask t .idle).report t r

/-! ### Guards -/

/-- A Task step (rule R101: none once a fault is raised), by what task `t` is doing. -/
def taskStep (s : State) (t : Nat) (k : TaskState → Out) : Out :=
  if s.fault.isSome then waits s
  else
    match s.task[t]? with
    | none => .refused (.noSuchTask t)
    | some ts => k ts

/-- A step the framing task takes while it is inside no operation (43_framer.md rule R89). -/
def framerStep (s : State) (k : Out) : Out :=
  taskStep s s.prm.framingTask fun ts =>
    match ts with
    | .idle => k
    | _ => waits s

/-- An interrupt service step (60_exceptions.md rule R105). -/
def irqStep (s : State) (pending : Bool) (k : Out) : Out :=
  if s.serviceEnabled pending then k else waits s

/-- A step enabled only while no fault is raised (rule R101). -/
def liveStep (s : State) (k : Out) : Out :=
  if s.fault.isSome then waits s else k

/-- A phase with an enabling condition: `none` means not enabled, so the task stays blocked (00_scope.md rule R6). -/
def blockUntil (s : State) (r : Option State) (k : State → State) : Out :=
  match r with
  | none => waits s
  | some s' => .next (k s')

/-! ### Locks and rendezvous (rule R22) -/

/-- `tx_lock`: "*acquire* by task `t` is enabled iff the lock is `free` and sets it `held(t)`". -/
def State.acquireTxLock (s : State) (t : Nat) : Option State :=
  if s.tx_lock = .free then some { s with tx_lock := .held t } else none

/-- `tx_lock`: "*release* by its holder sets it `free`". -/
def State.releaseTxLock (s : State) : State := { s with tx_lock := .free }

/-- `send_mutex`: acquire. -/
def State.acquireSendMutex (s : State) (t : Nat) : Option State :=
  if s.send_mutex = .free then some { s with send_mutex := .held t } else none

/-- `send_mutex`: release. -/
def State.releaseSendMutex (s : State) : State := { s with send_mutex := .free }

/-- `tx_done`: "*take* is enabled iff it is true and sets it false". -/
def State.takeTxDone (s : State) : Option State :=
  if s.tx_done then some { s with tx_done := false } else none

/-- A byte is written to the transmitter: it is on `wire_tx` in the same step and `txe` goes false (10_state.md rule
R14). -/
def State.emitTx (s : State) (b : Byte) : State := { s with wire_tx := s.wire_tx ++ [b], txe := false }

end Sys2Proof.Machine
end

