-- ==== Sys2Proof/Machine/FlowControl.lean ====
section
/-! DEFINITION. Hardware flow control: `FC_EDGE`, `FC_ISR`, `PAUSE_TX`, `RESUME_TX` (41_flow_control.md rules R60 to R63). -/

namespace Sys2Proof.Machine

/-- `FC_EDGE(level)` (rule R60): enabled iff the level changes; not guarded by `ready`. -/
def execFcEdge (level : Bool) (s : State) : Out :=
  liveStep s (if level = s.fc_level then waits s else .next { s with fc_level := level, fc_pend := true })

/-- The effect of `PAUSE_TX` (rule R62): nothing at all unless a transfer is active. -/
def State.paused (s : State) : State :=
  if s.tx_en then
    { s with
      tx_en := false
      remaining_count := s.tx_count
      initial_count := s.tx_size
      is_paused := true }
  else s

/-- The effect of `RESUME_TX` (rule R63): nothing at all unless a transfer is paused. -/
def State.resumed (s : State) : State :=
  if s.is_paused then
    { s with
      tx_count := s.remaining_count
      tx_ptr := s.resumePtr
      tx_tcie := true
      tx_en := true
      is_paused := false }
  else s

/-- `FC_ISR` (rule R61): the hook is chosen by the level found at service time. -/
def execFcIsr (s : State) : Out :=
  irqStep s s.fcPending
    (.next (if s.pauseLevel then { s with fc_pend := false }.paused else { s with fc_pend := false }.resumed))

/-- `PAUSE_TX` (rule R62), exposed as a step of its own. -/
def execPauseTx (s : State) : Out := liveStep s (.next s.paused)

/-- `RESUME_TX` (rule R63), exposed as a step of its own. -/
def execResumeTx (s : State) : Out := liveStep s (.next s.resumed)

end Sys2Proof.Machine
end

