-- ==== Sys2Proof/Machine/DispatchTable.lean ====
section
/-! DEFINITION. The Dispatch Table (44_serializer_dispatch.md rule R93). -/

namespace Sys2Proof.Machine

/-- The handler a group tag selects, if any (rule R93). -/
def handlerOf (P : Params) (g : Byte) : Option Handler :=
  if g = P.groupRadio then some .radio
  else if g = P.groupPm then some .pm
  else if g = P.groupOw then some .ow
  else none

/-- The effect of `DISPATCH(p)` (rule R93): an unknown group is logged and dropped. -/
def State.dispatched (s : State) (p : Packet) : State :=
  match handlerOf s.prm (groupTag s.prm p.type) with
  | some h => { s with dispatch_log := s.dispatch_log ++ [(h, p)] }
  | none => { s with diag_log := s.diag_log ++ [.unknownGroup p] }

/-- `DISPATCH(p)` (rule R93), exposed as a step of the framing task (log entry 10). -/
def execDispatch (p : Packet) (s : State) : Out :=
  framerStep s (if p.wf then .next (s.dispatched p) else .refused .notAPacket)

end Sys2Proof.Machine
end

