-- ==== Sys2Proof/Machine/Receive.lean ====
section
/-! DEFINITION. The receive paths: `RX_BYTE`, `RX_ERROR`, `RX_IDLE`, `RXNE_ISR`, `RX_COMPLETE_ISR`, `RECV_TIMEOUT`,
`TIMEOUT_EXPIRE`, `GET_AVAILABLE` (42_transport_rx.md rules R70 to R77). -/

namespace Sys2Proof.Machine

/-- The byte-interrupt path's update (rule R70): latch, or overrun while the previous byte is unread. -/
def State.latch (s : State) (b : Byte) : State :=
  if s.rxne then { s with ore := true } else { s with rdr := b, rxne := true }

/-- One receive beat of the DMA path into an enabled stream (rule R70); `none` if the store index is outside
`rx_buf`. -/
def State.rxBeat (s : State) (b : Byte) : Option State :=
  (storeAt s.rx_buf s.rxValid b).map fun buf =>
    { s with
      rx_buf := buf
      rx_remaining := s.rx_remaining - 1
      rx_en := if s.rx_remaining - 1 = 0 then false else s.rx_en
      rx_tcif := if s.rx_remaining - 1 = 0 then true else s.rx_tcif }

/-- The two path updates of rule R70 on a state `s'` reached from `s`; `s` is the state before the step, which a fault
leaves as it was (60_exceptions.md rules R101, R106). -/
def rxPaths (s s' : State) (b : Byte) (r : RxDraw) : Out :=
  let latched := if irqSees s.prm.rxRoute r then s'.latch b else s'
  if dmaSees s.prm.rxRoute r then
    if s.rx_en then
      match latched.rxBeat b with
      | some s'' => .next s''
      | none => .fault (.indexOutOfBounds .rxBuf)
    else .next (s.raiseFault (.rxDmaOverrun b))
  else .next latched

/-- An Env step on the receiver, which "does nothing before `INIT`" (rules R70 to R72). -/
def receiverStep (s : State) (k : Out) : Out :=
  liveStep s (if s.ready then k else .next s)

/-- `RX_BYTE(b)` (rule R70). -/
def execRxByte (b : Byte) (r : RxDraw) (s : State) : Out :=
  receiverStep s (rxPaths s s b r)

/-- The flag named by the kind of a line error (rule R71). -/
def State.setLineError (s : State) (kind : LineError) : State :=
  match kind with
  | .pe => { s with pe := true }
  | .fe => { s with fe := true }
  | .ne => { s with ne := true }

/-- `RX_ERROR(kind, d)` (rule R71): the flag, then the path updates of rule R70 if a byte is delivered. -/
def execRxError (kind : LineError) (d : Option Byte) (r : RxDraw) (s : State) : Out :=
  receiverStep s
    (match d with
     | none => .next (s.setLineError kind)
     | some b => rxPaths s (s.setLineError kind) b r)

/-- `RX_IDLE` (rule R72). -/
def execRxIdle (s : State) : Out :=
  receiverStep s (.next { s with idle := true })

/-- The push of `RXNE_ISR` (rule R73): a full queue drops silently. -/
def pushByteq (q : List Byte) (b : Byte) : List Byte :=
  if q.length < byteqCap then q ++ [b] else q

/-- `RXNE_ISR` (rule R73): read status, then data. -/
def execRxneIsr (s : State) : Out :=
  irqStep s s.rxnePending
    (.next { s with
      byteq := if s.rxne then pushByteq s.byteq s.rdr else s.byteq
      rxne := false
      pe := false
      fe := false
      ne := false
      ore := false })

/-- The pending flag of a cause, cleared (rule R74). -/
def State.clearCause (s : State) (cause : RxCause) : State :=
  match cause with
  | .tc => { s with rx_tcif := false }
  | .idle => { s with idle := false }

/-- The hand-off of rule R74 with the valid bytes `got`: diagnostics, stage, zero fill, re-arm, signal. -/
def State.handOff (s : State) (got : List Byte) : State :=
  { s with
    diag_log := s.diag_log ++ [.rxCheck got.length]
    stage := s.stage ++ got
    rx_buf := s.rx_buf.map (fun _ => 0)
    rx_remaining := s.prm.rxbufCap
    rx_en := true
    rx_done := true }

/-- `RX_COMPLETE_ISR(cause)` (rule R74). -/
def execRxCompleteIsr (cause : RxCause) (s : State) : Out :=
  irqStep s (s.rxCompletePending cause)
    (if s.prm.stageCap < s.stage.length + s.rxValid then
       .next (s.raiseFault (.rxStageOverflow s.stage.length s.rxValid))
     else
       match readPrefix s.rx_buf s.rxValid with
       | some got => .next ((s.clearCause cause).handOff got)
       | none => .fault (.indexOutOfBounds .rxBuf))

/-- `RECV_TIMEOUT(timeout)` (rule R75): the entry, then phase W, enabled iff `byteq` holds a byte. The operand has no
effect. -/
def execRecvTimeout (t : Nat) (_timeout : Nat) (s : State) : Out :=
  taskStep s t fun ts =>
    match ts with
    | .idle => if s.ready then .next (s.setTask t .recvTimeout) else .next (s.report t .notFound)
    | .recvTimeout =>
      match s.byteq with
      | [] => waits s
      | b :: rest => .next ({ s with byteq := rest }.finish t (.found b))
    | _ => waits s

/-- `TIMEOUT_EXPIRE(t)` (rule R76): enabled iff task `t` waits in phase W and `byteq` is empty. -/
def execTimeoutExpire (t : Nat) (s : State) : Out :=
  taskStep s t fun ts =>
    match ts with
    | .recvTimeout => if s.byteq = [] then .next (s.finish t .notFound) else waits s
    | _ => waits s

/-- What `GET_AVAILABLE(max)` returns (rule R77). -/
def State.availableBytes (s : State) (max : Nat) : List Byte :=
  if s.ready && s.rx_done then s.stage.take max else []

/-- What `GET_AVAILABLE(max)` leaves (rule R77): the rest of the stage, and the rendezvous taken once it is empty. -/
def State.drained (s : State) (max : Nat) : State :=
  if s.ready && s.rx_done then
    { s with
      stage := s.stage.drop max
      rx_done := if s.stage.drop max = [] then false else s.rx_done }
  else s

/-- `GET_AVAILABLE(max)` (rule R77): one atomic step of the framing task; a call by another task is refused (U7). -/
def execGetAvailable (t : Nat) (max : Nat) (s : State) : Out :=
  taskStep s t fun ts =>
    if t ≠ s.prm.framingTask then .refused (.notFramingTask t)
    else
      match ts with
      | .idle => .next ((s.drained max).report t (.available (s.availableBytes max)))
      | _ => waits s

end Sys2Proof.Machine
end

