-- ==== Sys2Proof/Machine/Framer.lean ====
section
/-! DEFINITION. The Framing State Machine (43_framer.md rules R80 to R89), the rows of its transition table, and the wire
frame taken in by it. -/

namespace Sys2Proof.Machine

/-- `FOLD(b)` (rule R88). -/
def State.fold (s : State) (b : Byte) : State :=
  { s with
    f_ck0 := (foldCk (s.f_ck0, s.f_ck1) b).1
    f_ck1 := (foldCk (s.f_ck0, s.f_ck1) b).2 }

/-- `s.fs <- x`. -/
def State.goto (s : State) (x : FramerState) : State := { s with fs := x }

/-- State `WaitStart1` (rule R81). -/
def feedWaitStart1 (b : Byte) (s : State) : Out :=
  if b = startByte1 then .next (s.goto .waitStart2) else .next s

/-- State `WaitStart2` (rule R82). -/
def feedWaitStart2 (b : Byte) (s : State) : Out :=
  if b = startByte2 then .next (s.goto .waitType) else .next (s.goto .waitStart1)

/-- State `WaitType` (rule R83). -/
def feedWaitType (b : Byte) (s : State) : Out :=
  .next ({ s with f_type := b, f_ck0 := b, f_ck1 := b }.goto .waitLength)

/-- The reject of `WaitLength` (rule R84): consumed, not folded. -/
def State.lengthRejected (s : State) (b : Byte) : State := { s with f_length := b }.goto .waitStart1

/-- An accepted length (rule R84), before the branch on it. -/
def State.lengthTaken (s : State) (b : Byte) : State := { ({ s with f_length := b }.fold b) with f_idx := 0 }

/-- State `WaitLength` (rule R84). -/
def feedWaitLength (b : Byte) (s : State) : Out :=
  if s.prm.mtu < b then .next (s.lengthRejected b)
  else .next ((s.lengthTaken b).goto (if b = 0 then .waitChecksum1 else .waitData))

/-- A payload byte is taken in and folded (rule R85); `none` if `f_idx` is outside `f_data`. -/
def State.dataTaken (s : State) (b : Byte) : Option State :=
  (storeAt s.f_data s.f_idx b).map fun d => { ({ s with f_data := d }.fold b) with f_idx := s.f_idx + 1 }

/-- State `WaitData` (rule R85). -/
def feedWaitData (b : Byte) (s : State) : Out :=
  match s.dataTaken b with
  | none => .fault (.indexOutOfBounds .fData)
  | some s' => .next (if s.f_idx + 1 = s.f_length.toNat then s'.goto .waitChecksum1 else s')

/-- State `WaitChecksum1` (rule R86). -/
def feedWaitChecksum1 (b : Byte) (s : State) : Out :=
  if b = s.f_ck0 then .next (s.goto .waitChecksum2) else .next (s.goto .waitStart1)

/-- The packet the framer has assembled (rule R87); `none` if `f_length` is outside `f_data`. -/
def State.assembled (s : State) : Option Packet :=
  (readPrefix s.f_data s.f_length.toNat).map fun d => { type := s.f_type, length := s.f_length, data := d }

/-- State `WaitChecksum2` (rule R87): in either outcome back to `WaitStart1`. -/
def feedWaitChecksum2 (b : Byte) (s : State) : Out :=
  if b = s.f_ck1 then
    match s.assembled with
    | none => .fault (.indexOutOfBounds .fData)
    | some p => .next ((s.dispatched p).goto .waitStart1)
  else .next (s.goto .waitStart1)

/-- One transition, chosen by the current state (rule R80). -/
def feedByte (b : Byte) (s : State) : Out :=
  match s.fs with
  | .waitStart1 => feedWaitStart1 b s
  | .waitStart2 => feedWaitStart2 b s
  | .waitType => feedWaitType b s
  | .waitLength => feedWaitLength b s
  | .waitData => feedWaitData b s
  | .waitChecksum1 => feedWaitChecksum1 b s
  | .waitChecksum2 => feedWaitChecksum2 b s

/-- Bytes fed in order (rule R80). -/
def feedBytes (bs : List Byte) (s : State) : Out :=
  match bs with
  | [] => .next s
  | b :: rest => andThen (feedByte b s) (feedBytes rest)

/-- `FEED(b)` (rule R80). -/
def execFeed (b : Byte) (s : State) : Out := framerStep s (feedByte b s)

/-- `FRAMER_POLL` (rule R89): `GET_AVAILABLE(POLL_MAX)`, then `FEED` of each byte in order, as one step (log
entry 17). -/
def execFramerPoll (s : State) : Out :=
  framerStep s
    (feedBytes (s.availableBytes s.prm.pollMax)
      ((s.drained s.prm.pollMax).report s.prm.framingTask (.available (s.availableBytes s.prm.pollMax))))

/-- `FRAME` (30_encoding.md rules R40, R46, R47): the framer takes in the frame's bytes in sequence order (log entry 11). -/
def execFrame (f : Frame) (s : State) : Out := framerStep s (feedBytes f.bytes s)

/-! ### The rows of the transition table

Each row is enabled when the framer is in the row's state and the byte meets the row's condition; it performs that
one transition (30_encoding.md rule R49). -/

/-- The guard of a row. -/
def feedRowStep (s : State) (x : FramerState) (cond : Bool) (k : Out) : Out :=
  framerStep s (if s.fs = x ∧ cond = true then k else waits s)

/-- `FEED.WaitStart1.sync` (rule R81). -/
def execFeedWaitStart1Sync (s : State) : Out :=
  feedRowStep s .waitStart1 true (.next (s.goto .waitStart2))

/-- `FEED.WaitStart1.other` (rule R81). -/
def execFeedWaitStart1Other (b : Byte) (s : State) : Out :=
  feedRowStep s .waitStart1 (b != startByte1) (.next s)

/-- `FEED.WaitStart2.sync` (rule R82). -/
def execFeedWaitStart2Sync (s : State) : Out :=
  feedRowStep s .waitStart2 true (.next (s.goto .waitType))

/-- `FEED.WaitStart2.other` (rule R82). -/
def execFeedWaitStart2Other (b : Byte) (s : State) : Out :=
  feedRowStep s .waitStart2 (b != startByte2) (.next (s.goto .waitStart1))

/-- `FEED.WaitType.any` (rule R83). -/
def execFeedWaitTypeAny (b : Byte) (s : State) : Out :=
  feedRowStep s .waitType true (feedWaitType b s)

/-- `FEED.WaitLength.oversize` (rule R84): `b > MTU`. -/
def execFeedWaitLengthOversize (b : Byte) (s : State) : Out :=
  feedRowStep s .waitLength (decide (s.prm.mtu < b)) (.next (s.lengthRejected b))

/-- `FEED.WaitLength.zero` (rule R84): `b = 0`. -/
def execFeedWaitLengthZero (s : State) : Out :=
  feedRowStep s .waitLength true (.next ((s.lengthTaken 0).goto .waitChecksum1))

/-- `FEED.WaitLength.data` (rule R84): `1 <= b <= MTU`. -/
def execFeedWaitLengthData (b : Byte) (s : State) : Out :=
  feedRowStep s .waitLength (b != 0 && decide (b ≤ s.prm.mtu)) (.next ((s.lengthTaken b).goto .waitData))

/-- `FEED.WaitData.more` (rule R85): `f_idx + 1 < f_length`. -/
def execFeedWaitDataMore (b : Byte) (s : State) : Out :=
  feedRowStep s .waitData (decide (s.f_idx + 1 < s.f_length.toNat))
    (match s.dataTaken b with
     | none => .fault (.indexOutOfBounds .fData)
     | some s' => .next s')

/-- `FEED.WaitData.last` (rule R85): `f_idx + 1 = f_length`. -/
def execFeedWaitDataLast (b : Byte) (s : State) : Out :=
  feedRowStep s .waitData (decide (s.f_idx + 1 = s.f_length.toNat))
    (match s.dataTaken b with
     | none => .fault (.indexOutOfBounds .fData)
     | some s' => .next (s'.goto .waitChecksum1))

/-- `FEED.WaitChecksum1.match` (rule R86): `b = f_ck0`. -/
def execFeedWaitChecksum1Match (b : Byte) (s : State) : Out :=
  feedRowStep s .waitChecksum1 (b == s.f_ck0) (.next (s.goto .waitChecksum2))

/-- `FEED.WaitChecksum1.mismatch` (rule R86): `b != f_ck0`. -/
def execFeedWaitChecksum1Mismatch (b : Byte) (s : State) : Out :=
  feedRowStep s .waitChecksum1 (b != s.f_ck0) (.next (s.goto .waitStart1))

/-- `FEED.WaitChecksum2.match` (rule R87): `b = f_ck1`, with `DISPATCH` inside the step. -/
def execFeedWaitChecksum2Match (b : Byte) (s : State) : Out :=
  feedRowStep s .waitChecksum2 (b == s.f_ck1)
    (match s.assembled with
     | none => .fault (.indexOutOfBounds .fData)
     | some p => .next ((s.dispatched p).goto .waitStart1))

/-- `FEED.WaitChecksum2.mismatch` (rule R87): `b != f_ck1`. -/
def execFeedWaitChecksum2Mismatch (b : Byte) (s : State) : Out :=
  feedRowStep s .waitChecksum2 (b != s.f_ck1) (.next (s.goto .waitStart1))

end Sys2Proof.Machine
end

