-- ==== Sys2Proof/Machine/Transmit.lean ====
section
/-! DEFINITION. Initialisation and the transmit path: `INIT`, `SEND_LOW_RATE`, `SEND_DMA`, `TX_BEAT`, `TX_EMPTY`,
`TX_TC_ISR` (40_transport_tx.md rules R50 to R55). An operation that can wait performs, each time it is offered, its next
phase (00_scope.md rule R6; log entry 2). -/

namespace Sys2Proof.Machine

/-- The effect of `INIT` (rule R50). -/
def State.initialised (s : State) : State :=
  { s with
    cfg := some { baud := s.prm.baud, word_len := 8, parity := false, stop_bits := 1 }
    rx_remaining := s.prm.rxbufCap
    rx_tcif := false
    rx_en := true
    armed := true
    ready := true }

/-- `INIT` (rule R50): an idle task's step, refused when the block is already ready (U8). -/
def execInit (t : Nat) (s : State) : Out :=
  taskStep s t fun ts =>
    match ts with
    | .idle => if s.ready then .refused .secondInit else .next s.initialised
    | _ => waits s

/-- Phase `i` of `SEND_LOW_RATE` (rule R51): enabled iff `txe`. -/
def lowRatePhase (t : Nat) (bytes : List Byte) (i : Nat) (s : State) : Out :=
  if s.txe then
    match bytes[i]? with
    | none => .fault (.indexOutOfBounds .sendBytes)
    | some b =>
      .next ((s.emitTx b).setTask t (if i + 1 = bytes.length then .idle else .sendLowRate bytes (i + 1)))
  else waits s

/-- `SEND_LOW_RATE(bytes)` (rule R51): the entry, then one phase per byte (log entry 9). -/
def execSendLowRate (t : Nat) (bytes : List Byte) (s : State) : Out :=
  taskStep s t fun ts =>
    match ts with
    | .idle => if s.ready && !bytes.isEmpty then .next (s.setTask t (.sendLowRate bytes 0)) else .next s
    | .sendLowRate bs i => if bs = bytes then lowRatePhase t bytes i s else waits s
    | _ => waits s

/-- Phase C of `SEND_DMA` (rule R52): enabled iff no transfer is active or paused; one atomic step programs the
descriptor, the live registers, the interrupt enable and the stream enable. -/
def State.programTx (s : State) (addr : Addr) (size : Count) : Option State :=
  if !s.tx_en && !s.is_paused then
    some { s with
      tx_base := addr
      tx_size := size
      tx_ptr := addr
      tx_count := size
      tx_tcie := true
      tx_en := true }
  else none

/-- The phases A, C, D, E of `SEND_DMA` (rule R52). -/
def sendDmaPhase (t : Nat) (addr : Addr) (size : Count) (phase : DmaPhase) (s : State) : Out :=
  match phase with
  | .a => blockUntil s (s.acquireTxLock t) fun s' => s'.setTask t (.sendDma addr size .c)
  | .c => blockUntil s (s.programTx addr size) fun s' => s'.setTask t (.sendDma addr size .d)
  | .d => blockUntil s s.takeTxDone fun s' => s'.setTask t (.sendDma addr size .e)
  | .e => .next (s.releaseTxLock.finish t .completed)

/-- `SEND_DMA(addr, size)` (rule R52): the entry (phase 0), then the phases. -/
def execSendDma (t : Nat) (addr : Addr) (size : Count) (s : State) : Out :=
  taskStep s t fun ts =>
    match ts with
    | .idle =>
      if !s.ready then .next (s.report t .driverAbsent)
      else if size = 0 then .refused .emptyTransfer
      else if rangeWraps addr size then .refused .wrappingTransfer
      else .next (s.setTask t (.sendDma addr size .a))
    | .sendDma a n phase => if a = addr ∧ n = size then sendDmaPhase t addr size phase s else waits s
    | _ => waits s

/-- The effect of `TX_BEAT` (rule R53): the byte is fetched from `Mem` at the moment of the beat (20_memory.md rule
R39), and the last beat retires the stream. -/
def State.beat (s : State) : State :=
  { s.emitTx (s.mem.read s.tx_ptr) with
    tx_ptr := s.tx_ptr + 1
    tx_count := s.tx_count - 1
    tx_en := if s.tx_count - 1 = 0 then false else s.tx_en
    tx_tcif := if s.tx_count - 1 = 0 then true else s.tx_tcif }

/-- `TX_BEAT` (rule R53): enabled iff `tx_en and txe`. -/
def execTxBeat (s : State) : Out :=
  liveStep s (if s.beatEnabled then .next s.beat else waits s)

/-- `TX_EMPTY` (rule R54): enabled iff `not txe`. -/
def execTxEmpty (s : State) : Out :=
  liveStep s (if s.txe then waits s else .next { s with txe := true })

/-- `TX_TC_ISR` (rule R55). -/
def execTxTcIsr (s : State) : Out :=
  irqStep s s.txTcPending (.next { s with tx_tcif := false, tx_tcie := false, tx_done := true })

end Sys2Proof.Machine
end

