-- ==== Sys2Proof/Machine/Serializer.lean ====
section
/-! DEFINITION. The Serializer/Sender: `SEND_PACKET` and its frame build `SERIALIZE` (44_serializer_dispatch.md rules R91,
R92). -/

namespace Sys2Proof.Machine

/-- The frame build of rule R92: the wire frame of `p` in `txf`, one byte at a time from `TXF_BASE`. -/
def State.serialized (s : State) (p : Packet) : State :=
  { s with mem := s.mem.writeBytes s.prm.txfBase p.frame.bytes }

/-- Phase V of `SEND_PACKET` (rule R91): the length check first, then the ready check (60_exceptions.md rule R106),
which `SEND_BEFORE_INIT = noop` leaves out. -/
def sendPacketEntry (t : Nat) (p : Packet) (s : State) : Out :=
  if !p.wf then .refused .notAPacket
  else if s.prm.mtu < p.length then .next (s.raiseFault (.assertMtu p.length))
  else if !s.ready && s.prm.sendBeforeInit == .fault then .next (s.raiseFault .sendNotReady)
  else .next (s.setTask t (.sendPacket p .m))

/-- Phase S of `SEND_PACKET` (rule R91): the frame build, then on to `SEND_DMA(TXF_BASE, p.length + 6)`. -/
def sendPacketBuild (t : Nat) (p : Packet) (s : State) : State :=
  (s.serialized p).setTask t (.sendPacket p (if s.ready then .a else .dma0))

/-- The phases M to Z of `SEND_PACKET` (rule R91). -/
def sendPacketPhase (t : Nat) (p : Packet) (phase : SendPhase) (s : State) : Out :=
  match phase with
  | .m => blockUntil s (s.acquireSendMutex t) fun s' => s'.setTask t (.sendPacket p .s)
  | .s => .next (sendPacketBuild t p s)
  | .dma0 => .next (s.setTask t (.sendPacket p (if s.ready then .a else .z)))
  | .a => blockUntil s (s.acquireTxLock t) fun s' => s'.setTask t (.sendPacket p .c)
  | .c => blockUntil s (s.programTx s.prm.txfBase (frameSize p)) fun s' => s'.setTask t (.sendPacket p .d)
  | .d => blockUntil s s.takeTxDone fun s' => s'.setTask t (.sendPacket p .e)
  | .e => .next (s.releaseTxLock.setTask t (.sendPacket p .z))
  | .z => .next (s.releaseSendMutex.finish t .ok)

/-- `SEND_PACKET(p)` (rule R91). -/
def execSendPacket (t : Nat) (p : Packet) (s : State) : Out :=
  taskStep s t fun ts =>
    match ts with
    | .idle => sendPacketEntry t p s
    | .sendPacket q phase => if q = p then sendPacketPhase t p phase s else waits s
    | _ => waits s

/-- `SERIALIZE(p)` (rule R92): "only the holder of `send_mutex` runs this", so it is that task's phase S (log entry 12). -/
def execSerialize (p : Packet) (s : State) : Out :=
  match s.send_mutex with
  | .free => waits s
  | .held t =>
    taskStep s t fun ts =>
      if ts = .sendPacket p .s then .next (sendPacketBuild t p s) else waits s

end Sys2Proof.Machine
end

