-- ==== Sys2Proof/Machine/Dispatch.lean ====
section
/-! DEFINITION. The meaning of every operation, one arm per row of spec/opcode_table.json. -/

namespace Sys2Proof.Machine

/-- One offered step of an operation (00_scope.md rules R5, R6). -/
def exec (i : Instr) (s : State) : Host.Outcome State Fault Refusal :=
  match i with
  | .init t => Sys2Proof.Machine.execInit t s
  | .sendLowRate t bytes => Sys2Proof.Machine.execSendLowRate t bytes s
  | .sendDma t addr size => Sys2Proof.Machine.execSendDma t addr size s
  | .recvTimeout t timeout => Sys2Proof.Machine.execRecvTimeout t timeout s
  | .getAvailable t max => Sys2Proof.Machine.execGetAvailable t max s
  | .sendPacket t p => Sys2Proof.Machine.execSendPacket t p s
  | .framerPoll => Sys2Proof.Machine.execFramerPoll s
  | .feed b => Sys2Proof.Machine.execFeed b s
  | .dispatch p => Sys2Proof.Machine.execDispatch p s
  | .rxneIsr => Sys2Proof.Machine.execRxneIsr s
  | .rxCompleteIsr cause => Sys2Proof.Machine.execRxCompleteIsr cause s
  | .txTcIsr => Sys2Proof.Machine.execTxTcIsr s
  | .fcIsr => Sys2Proof.Machine.execFcIsr s
  | .pauseTx => Sys2Proof.Machine.execPauseTx s
  | .resumeTx => Sys2Proof.Machine.execResumeTx s
  | .txBeat => Sys2Proof.Machine.execTxBeat s
  | .rxByte b r => Sys2Proof.Machine.execRxByte b r s
  | .rxError kind d r => Sys2Proof.Machine.execRxError kind d r s
  | .rxIdle => Sys2Proof.Machine.execRxIdle s
  | .fcEdge level => Sys2Proof.Machine.execFcEdge level s
  | .txEmpty => Sys2Proof.Machine.execTxEmpty s
  | .timeoutExpire t => Sys2Proof.Machine.execTimeoutExpire t s
  | .feedWaitStart1Sync => Sys2Proof.Machine.execFeedWaitStart1Sync s
  | .feedWaitStart1Other b => Sys2Proof.Machine.execFeedWaitStart1Other b s
  | .feedWaitStart2Sync => Sys2Proof.Machine.execFeedWaitStart2Sync s
  | .feedWaitStart2Other b => Sys2Proof.Machine.execFeedWaitStart2Other b s
  | .feedWaitTypeAny b => Sys2Proof.Machine.execFeedWaitTypeAny b s
  | .feedWaitLengthOversize b => Sys2Proof.Machine.execFeedWaitLengthOversize b s
  | .feedWaitLengthZero => Sys2Proof.Machine.execFeedWaitLengthZero s
  | .feedWaitLengthData b => Sys2Proof.Machine.execFeedWaitLengthData b s
  | .feedWaitDataMore b => Sys2Proof.Machine.execFeedWaitDataMore b s
  | .feedWaitDataLast b => Sys2Proof.Machine.execFeedWaitDataLast b s
  | .feedWaitChecksum1Match b => Sys2Proof.Machine.execFeedWaitChecksum1Match b s
  | .feedWaitChecksum1Mismatch b => Sys2Proof.Machine.execFeedWaitChecksum1Mismatch b s
  | .feedWaitChecksum2Match b => Sys2Proof.Machine.execFeedWaitChecksum2Match b s
  | .feedWaitChecksum2Mismatch b => Sys2Proof.Machine.execFeedWaitChecksum2Mismatch b s
  | .frame f => Sys2Proof.Machine.execFrame f s
  | .serialize p => Sys2Proof.Machine.execSerialize p s

end Sys2Proof.Machine
end

