-- ==== Sys2Proof/Machine/Fetch.lean ====
section
/-! DEFINITION. Where the next step comes from: the offered steps of `State.sched` (log entry 2). An operation word is
decoded and executed; `proceed t` executes the operation task `t` is inside; a host write stores one byte into the
host's own memory (20_memory.md rule R30). -/

namespace Sys2Proof.Machine

/-- The operation a task is inside, as the operation that performs its next phase (10_state.md rule R27). The operand
of `RECV_TIMEOUT` is no local and has no effect (42_transport_rx.md rule R75). -/
def TaskState.instr (ts : TaskState) (t : Nat) : Option Instr :=
  match ts with
  | .idle => none
  | .sendLowRate bytes _ => some (.sendLowRate t bytes)
  | .sendDma addr size _ => some (.sendDma t addr size)
  | .sendPacket p _ => some (.sendPacket t p)
  | .recvTimeout => some (.recvTimeout t 0)

/-- The next phase of the operation task `t` is inside; an idle task has none and waits. -/
def proceed (t : Nat) (s : State) : Out :=
  match s.task[t]? with
  | none => .refused (.noSuchTask t)
  | some ts =>
    match ts.instr t with
    | none => waits s
    | some i => exec i s

/-- Whether a task is inside a `SEND_DMA` whose buffer holds address `a`, from its entry to its return
(70_reset_and_hazards.md rule R127). -/
def TaskState.sends (ts : TaskState) (a : Addr) : Bool :=
  match ts with
  | .sendDma addr size _ => inRange addr size.toNat a
  | _ => false

/-- A write of the host to one byte of `Mem` (20_memory.md rule R30; log entry 14); refused inside `txf` (10_state.md rule R24) and
inside a transmit buffer in flight (93_implementation_defined.md U11). -/
def hostStore (a : Addr) (v : Byte) (s : State) : Out :=
  liveStep s
    (if inFrameBuffer s.prm a then .refused (.frameBufferWrite a)
     else if s.task.any (fun ts => ts.sends a) then .refused (.bufferInFlight a)
     else .next { s with mem := s.mem.write a v })

/-- An operation word: decoded, then executed; bytes after the operation's last are not looked at (log entry
3). -/
def runWord (fmt : Format) (word : List Byte) (s : State) : Out :=
  match decode fmt word with
  | .ok (i, _) => exec i s
  | .error e => .refused (.undecodable e)

/-- One offered step. -/
def runEvent (e : Event) (s : State) : Out :=
  match e with
  | .op fmt word => runWord fmt word s
  | .proceed t => proceed t s
  | .hostWrite a v => hostStore a v s

/-- The next offered step is taken from the front and run; with none offered nothing happens. -/
def runNext (s : State) : Out :=
  match s.sched with
  | [] => .next s
  | e :: rest => runEvent e { s with sched := rest }

/-- `s` with a table word offered next. -/
def placeWord (s : State) (nbits w : Nat) : State :=
  { s with sched := .op (tableFormat (tableWordBytes nbits w)) (tableWordBytes nbits w) :: s.sched }

end Sys2Proof.Machine
end

