-- ==== Sys2Proof/Machine/Step.lean ====
section
/-! DEFINITION. The step of the machine and the placing of a table word (HOST INTERFACE). Both only call
Machine/Fetch.lean. -/

namespace Sys2Proof.Machine

/-- One step: the next offered step is taken and run (00_scope.md rule R6). -/
def step (s : State) : Host.Outcome State Fault Refusal := runNext s

/-- `s` with the table word of `nbits` bits `w` where `step` takes its next operation. -/
def State.withFetchWord (s : State) (nbits w : Nat) : State := placeWord s nbits w

end Sys2Proof.Machine
end

