-- ==== Sys2Proof/Safety.lean ====
section
/-! DEFINITION. What counts as a safe state: the invariants of 10_state.md rule R28, made inductive and decidable, and the
classes of operations and views of the state that whole-machine statements speak of. -/

namespace Sys2Proof.Machine

/-- Task `t` is in the state `ts` of rule R27, in a block without a fault. -/
abbrev State.TaskIs (s : State) (t : Nat) (ts : TaskState) : Prop := s.fault = none ∧ s.task[t]? = some ts

/-- The framing task may take a step of its own: no fault, and it is inside no operation (43_framer.md rule R89). -/
abbrev State.FramerIdle (s : State) : Prop := s.TaskIs s.prm.framingTask .idle

/-! ### Who holds what -/

/-- The transfer a task asks of `SEND_DMA`: its address and size, for `SEND_PACKET` those of its frame (rules R52, R91). -/
def TaskState.transfer (P : Params) (ts : TaskState) : Option (Addr × Count) :=
  match ts with
  | .sendDma addr size _ => some (addr, size)
  | .sendPacket p _ => some (P.txfBase, frameSize p)
  | _ => none

/-- The task is past phase A and not past phase E of `SEND_DMA`: it holds `tx_lock` (rule R52). -/
def TaskState.holdsTxLock (ts : TaskState) : Bool :=
  match ts with
  | .sendDma _ _ phase => phase == .c || phase == .d || phase == .e
  | .sendPacket _ phase => phase == .c || phase == .d || phase == .e
  | _ => false

/-- The task waits in phase D of `SEND_DMA` for its transfer to complete (rule R52). -/
def TaskState.awaitsTx (ts : TaskState) : Bool :=
  match ts with
  | .sendDma _ _ phase => phase == .d
  | .sendPacket _ phase => phase == .d
  | _ => false

/-- The task is in phases S to Z of `SEND_PACKET`: it holds `send_mutex` (rule R91). -/
def TaskState.holdsSendMutex (ts : TaskState) : Bool :=
  match ts with
  | .sendPacket _ phase => phase != .m
  | _ => false

/-- The packet whose frame a task of `SEND_PACKET` has built: it is past phase S (rule R91). -/
def TaskState.built (ts : TaskState) : Option Packet :=
  match ts with
  | .sendPacket p phase => if phase = .m ∨ phase = .s then none else some p
  | _ => none

/-- The locals of a task are values its operation can have: a transfer inside the address space and not empty, a
Packet within `MTU`, a byte still to send (rules R51, R52, R91). -/
def TaskState.localsOk (P : Params) (ts : TaskState) : Bool :=
  match ts with
  | .idle => true
  | .sendLowRate bytes i => decide (i < bytes.length)
  | .sendDma addr size _ => size != 0 && !rangeWraps addr size
  | .sendPacket p _ => p.wf && decide (p.length ≤ P.mtu)
  | .recvTimeout => true

/-- A held lock names a task. -/
def Lock.namesTask (l : Lock) (n : Nat) : Bool :=
  match l with
  | .free => true
  | .held t => decide (t < n)

/-- A lock is held exactly by the task whose phase says so (rules R22, R28 item 9). -/
abbrev LockMatches (l : Lock) (task : List TaskState) (holds : TaskState → Bool) : Prop :=
  l.namesTask task.length = true ∧
  ∀ u < task.length, (task[u]?.any holds = true ↔ l = .held u)

/-! ### The invariants of rule R28 -/

/-- Parameters within rule R4, one task record per task, and every task's locals as its operation has them. -/
abbrev State.TasksOk (s : State) : Prop :=
  s.prm.Valid ∧ s.task.length = s.prm.ntask ∧ ∀ ts ∈ s.task, ts.localsOk s.prm = true

/-- Rule R28 item 1. -/
abbrev State.ArmedIsReady (s : State) : Prop := s.armed = s.ready

/-- Rule R28 item 9, and its counterpart for `tx_lock`. -/
abbrev State.LocksOk (s : State) : Prop :=
  LockMatches s.tx_lock s.task TaskState.holdsTxLock ∧ LockMatches s.send_mutex s.task TaskState.holdsSendMutex

/-- How many of the four signs of a transfer in progress stand: active, paused, completed, signalled. -/
def State.transferSigns (s : State) : Nat :=
  s.tx_en.toNat + s.is_paused.toNat + s.tx_tcif.toNat + s.tx_done.toNat

/-- Rule R28 item 4: a task waits in phase D exactly while one of the four signs of its transfer stands; the transfer
programmed is its own, and its completion interrupt is enabled until it is signalled. -/
abbrev State.TransferAwaited (s : State) : Prop :=
  (∀ ts ∈ s.task, ts.awaitsTx = true →
    ts.transfer s.prm = some (s.tx_base, s.tx_size) ∧ s.transferSigns = 1 ∧ (s.tx_done = false → s.tx_tcie = true)) ∧
  ((∀ ts ∈ s.task, ts.awaitsTx = false) → s.transferSigns = 0)

/-- Rule R28 items 2 and 3: where the stream's registers are while a transfer is active, paused or complete. -/
abbrev State.StreamOk (s : State) : Prop :=
  (s.tx_en = true →
    1 ≤ s.tx_count.toNat ∧ s.tx_count.toNat ≤ s.tx_size.toNat ∧ s.tx_ptr = s.tx_base + (s.tx_size - s.tx_count)) ∧
  (s.is_paused = true →
    s.tx_en = false ∧ 1 ≤ s.remaining_count.toNat ∧ s.remaining_count.toNat ≤ s.initial_count.toNat ∧
    s.initial_count = s.tx_size ∧ s.tx_count = s.remaining_count ∧ s.tx_ptr = s.tx_base + (s.tx_size - s.tx_count)) ∧
  (s.tx_tcif = true ∨ s.tx_done = true → s.tx_count = 0)

/-- Rule R28 item 5 as the rules keep it, with the size of `rx_buf` (item 7's range). Item 5 also says that `rx_tcif`
implies `rx_remaining = 0`; rule R74's corner case (c) breaks that (log entry 13). -/
abbrev State.ReceiveOk (s : State) : Prop :=
  s.rx_buf.length = s.prm.rxbufCap.toNat ∧ s.rx_remaining.toNat ≤ s.prm.rxbufCap.toNat ∧
  (s.ready = true → s.rx_en = decide (0 < s.rx_remaining.toNat))

/-- Rule R28 item 6. -/
abbrev State.FramerOk (s : State) : Prop :=
  s.f_data.length = s.prm.mtu.toNat ∧
  (s.fs = .waitData → s.f_idx < s.f_length.toNat ∧ s.f_length ≤ s.prm.mtu) ∧
  (s.fs = .waitChecksum1 ∨ s.fs = .waitChecksum2 → s.f_idx = s.f_length.toNat ∧ s.f_length ≤ s.prm.mtu)

/-- Rule R28 item 8. -/
abbrev State.QueuesOk (s : State) : Prop :=
  s.byteq.length ≤ byteqCap ∧ s.stage.length ≤ s.prm.stageCap

/-- The invariants together. -/
abbrev State.Inv (s : State) : Prop :=
  s.TasksOk ∧ s.ArmedIsReady ∧ s.LocksOk ∧ s.TransferAwaited ∧ s.StreamOk ∧ s.ReceiveOk ∧ s.FramerOk ∧ s.QueuesOk ∧
  s.mem.Wf

/-- Rule R28 item 5 word for word, for a ready block. -/
abbrev State.Item5 (s : State) : Prop :=
  s.rx_remaining.toNat ≤ s.prm.rxbufCap.toNat ∧
  (s.ready = true → s.rx_en = decide (0 < s.rx_remaining.toNat) ∧ (s.rx_tcif = true → s.rx_remaining = 0))

/-- A frame that a task of `SEND_PACKET` has built stands in `txf` until the task returns (rules R24, R91). -/
abbrev State.FramesBuilt (s : State) : Prop :=
  ∀ ts ∈ s.task, ∀ p ∈ ts.built, s.mem.slice s.prm.txfBase (p.length.toNat + 6) = p.frame.bytes

/-- A safe state: the invariants hold and no fault is raised (60_exceptions.md rule R101, "a claim about the block takes
`s.fault = none` as a premise or proves it"). -/
abbrev State.Safe (s : State) : Prop := s.Inv ∧ s.fault = none

end Sys2Proof.Machine

namespace Sys2Proof

open Sys2Proof.Machine

/-! ### Classes of operations -/

/-- The interrupt service steps and the flow-control hooks (60_exceptions.md rule R108, interrupt context). -/
def Instr.isIrq (i : Instr) : Bool :=
  match i with
  | .rxneIsr | .rxCompleteIsr _ | .txTcIsr | .fcIsr | .pauseTx | .resumeTx => true
  | _ => false

/-- The flow-control edge interrupt and its two hooks (10_state.md rule R20). -/
def Instr.isFlowControl (i : Instr) : Bool :=
  match i with
  | .fcIsr | .pauseTx | .resumeTx => true
  | _ => false

/-- The operations that write the framer registers: `FEED`, its rows, and what is made of it (10_state.md rule R23). -/
def Instr.isFramer (i : Instr) : Bool :=
  match i with
  | .framerPoll | .feed _ | .frame _ => true
  | .feedWaitStart1Sync | .feedWaitStart1Other _ | .feedWaitStart2Sync | .feedWaitStart2Other _ => true
  | .feedWaitTypeAny _ | .feedWaitLengthOversize _ | .feedWaitLengthZero | .feedWaitLengthData _ => true
  | .feedWaitDataMore _ | .feedWaitDataLast _ | .feedWaitChecksum1Match _ | .feedWaitChecksum1Mismatch _ => true
  | .feedWaitChecksum2Match _ | .feedWaitChecksum2Mismatch _ => true
  | _ => false

/-- The task whose record an operation may change (10_state.md rule R27): the caller, the task whose window ends, the
holder of `send_mutex`; none for the steps of the other agents and of the framer. -/
def Instr.caller (i : Instr) (s : State) : Option Nat :=
  match i with
  | .init t | .sendLowRate t _ | .sendDma t _ _ | .recvTimeout t _ | .getAvailable t _ | .sendPacket t _ => some t
  | .timeoutExpire t => some t
  | .serialize _ =>
    match s.send_mutex with
    | .held t => some t
    | .free => none
  | _ => none

/-- The next state the table gives each row (43_framer.md state transition table). -/
def Instr.rowNextState (i : Instr) : Option FramerState :=
  match i with
  | .feedWaitStart1Sync => some .waitStart2
  | .feedWaitStart1Other _ => some .waitStart1
  | .feedWaitStart2Sync => some .waitType
  | .feedWaitStart2Other _ => some .waitStart1
  | .feedWaitTypeAny _ => some .waitLength
  | .feedWaitLengthOversize _ => some .waitStart1
  | .feedWaitLengthZero => some .waitChecksum1
  | .feedWaitLengthData _ => some .waitData
  | .feedWaitDataMore _ => some .waitData
  | .feedWaitDataLast _ => some .waitChecksum1
  | .feedWaitChecksum1Match _ => some .waitChecksum2
  | .feedWaitChecksum1Mismatch _ => some .waitStart1
  | .feedWaitChecksum2Match _ => some .waitStart1
  | .feedWaitChecksum2Mismatch _ => some .waitStart1
  | _ => none

/-- Whether an operation is `SEND_LOW_RATE` (70_reset_and_hazards.md rule R126). -/
def Instr.isLowRate (i : Instr) : Bool :=
  match i with
  | .sendLowRate _ _ => true
  | _ => false

/-- The byte an operation offers to the DMA path of a ready block (rules R70, R71). -/
def Instr.dmaOffer (P : Params) (i : Instr) : List Byte :=
  match i with
  | .rxByte b r => if dmaSees P.rxRoute r then [b] else []
  | .rxError _ (some b) r => if dmaSees P.rxRoute r then [b] else []
  | _ => []

/-- The byte an operation offers to the byte-interrupt path of a ready block (rules R70, R71). -/
def Instr.irqOffer (P : Params) (i : Instr) : List Byte :=
  match i with
  | .rxByte b r => if irqSees P.rxRoute r then [b] else []
  | .rxError _ (some b) r => if irqSees P.rxRoute r then [b] else []
  | _ => []

end Sys2Proof

namespace Sys2Proof.Machine

/-! ### The next step, and the streams seen end to end -/

/-- The row of the transition table that `(fs, b)` selects: the rows of a state tried in the order listed
(30_encoding.md rule R49, 43_framer.md state transition table). -/
def State.feedRow (s : State) (b : Byte) : Instr :=
  match s.fs with
  | .waitStart1 => if b = startByte1 then .feedWaitStart1Sync else .feedWaitStart1Other b
  | .waitStart2 => if b = startByte2 then .feedWaitStart2Sync else .feedWaitStart2Other b
  | .waitType => .feedWaitTypeAny b
  | .waitLength =>
    if s.prm.mtu < b then .feedWaitLengthOversize b
    else if b = 0 then .feedWaitLengthZero else .feedWaitLengthData b
  | .waitData => if s.f_idx + 1 < s.f_length.toNat then .feedWaitDataMore b else .feedWaitDataLast b
  | .waitChecksum1 => if b = s.f_ck0 then .feedWaitChecksum1Match b else .feedWaitChecksum1Mismatch b
  | .waitChecksum2 => if b = s.f_ck1 then .feedWaitChecksum2Match b else .feedWaitChecksum2Mismatch b

/-- Operations one after another. -/
def execAll (is : List Instr) (s : State) : Out :=
  match is with
  | [] => .next s
  | i :: rest => andThen (exec i s) (execAll rest)

/-- The operation the next offered step runs, if it runs one. -/
def State.nextInstr (s : State) : Option Instr :=
  match s.sched with
  | .op fmt word :: _ =>
    match decode fmt word with
    | .ok (i, _) => some i
    | .error _ => none
  | .proceed t :: _ => s.task[t]?.bind (fun ts => ts.instr t)
  | _ => none

/-- The bytes a result of `GET_AVAILABLE` carries (42_transport_rx.md rule R78). -/
def Result.availableOut (r : Result) : List Byte :=
  match r with
  | .available out => out
  | _ => []

/-- The left side of rule R78: everything returned by `GET_AVAILABLE`, then `stage`, then the valid bytes of `rx_buf`. -/
def State.dmaStream (s : State) : List Byte :=
  s.ret.flatMap (fun r => r.2.availableOut) ++ s.stage ++ s.rx_buf.take s.rxValid

/-- The byte a result of `RECV_TIMEOUT` carries (42_transport_rx.md rule R78). -/
def Result.foundByte (r : Result) : List Byte :=
  match r with
  | .found b => [b]
  | _ => []

/-- Everything returned by `RECV_TIMEOUT`, then `byteq`, then the data register while it is unread (rule R78). -/
def State.irqStream (s : State) : List Byte :=
  s.ret.flatMap (fun r => r.2.foundByte) ++ s.byteq ++ (if s.rxne then [s.rdr] else [])

/-- The bytes of the programmed transfer that its beats have put on the wire are exactly what `wire_tx` holds after
`w0` (40_transport_tx.md rule R56, 41_flow_control.md rule R64). -/
abbrev State.SentAfter (s : State) (w0 : List Byte) : Prop :=
  s.wire_tx = w0 ++ s.mem.slice s.tx_base (s.tx_size - s.tx_count).toNat

/-- `s` with the fields of the DMA receive path taken from `u` (rule R79). -/
def State.withDmaPath (s u : State) : State :=
  { s with
    rx_buf := u.rx_buf
    rx_remaining := u.rx_remaining
    rx_en := u.rx_en
    rx_tcif := u.rx_tcif
    stage := u.stage
    rx_done := u.rx_done }

/-- `s` with the fields of the byte-interrupt path taken from `u` (rule R79). -/
def State.withIrqPath (s u : State) : State :=
  { s with
    rdr := u.rdr
    rxne := u.rxne
    pe := u.pe
    fe := u.fe
    ne := u.ne
    ore := u.ore
    byteq := u.byteq }

end Sys2Proof.Machine
end

