-- ==== Sys2Proof/Certificates/Slice0/Obligations.lean ====
section
/-! DEFINITION. The statements for the provers, in the order of the spec's files. A next state is written out field by
field, `{ s with ... }`, so every statement of a result is also the frame of its operation: no field it does not name
changes. -/

section

open Sys2Proof Sys2Proof.Machine

/-! ### Reset and parameters -/

/-- 70_reset_and_hazards.md rule R120: every value its table gives. The registers it leaves unspecified are not spoken of
(log entry 6). -/
def Obligations.ResetHoldsTheSpecsValues : Prop :=
  ∀ (P : Params) (level : Bool), ∃ s, s = State.resetWith P level ∧
    s.ready = false ∧ s.armed = false ∧ s.cfg = none ∧
    s.rxne = false ∧ s.idle = false ∧ s.pe = false ∧ s.fe = false ∧ s.ne = false ∧ s.ore = false ∧
    s.txe = true ∧ s.fc_pend = false ∧ s.fc_level = level ∧
    s.rx_en = false ∧ s.rx_remaining = 0 ∧ s.rx_tcif = false ∧ s.rx_done = false ∧ s.stage = [] ∧ s.byteq = [] ∧
    s.tx_en = false ∧ s.tx_tcie = false ∧ s.tx_tcif = false ∧
    s.tx_ptr = 0 ∧ s.tx_count = 0 ∧ s.tx_base = 0 ∧ s.tx_size = 0 ∧
    s.is_paused = false ∧ s.initial_count = 0 ∧ s.remaining_count = 0 ∧
    s.tx_lock = .free ∧ s.send_mutex = .free ∧ s.tx_done = false ∧ s.fs = .waitStart1 ∧
    s.wire_tx = [] ∧ s.dispatch_log = [] ∧ s.diag_log = [] ∧ s.fault = none ∧
    (∀ t < P.ntask, s.task[t]? = some .idle) ∧ s.task.length = P.ntask

/-- 10_state.md rule R28 holds at reset, for every parameter set within rule R4 and either pin level. -/
def Obligations.InvariantsHoldAtReset : Prop :=
  (∀ (P : Params) (level : Bool), P.Valid → (State.resetWith P level).Inv ∧ (State.resetWith P level).FramesBuilt) ∧
  State.reset.Inv ∧ State.reset.FramesBuilt

/-! ### 40_transport_tx.md -/

/-- Rule R50: `INIT` of an idle task configures, arms and marks ready; a second one is refused; a task that is inside an
operation cannot call it.
That a step which is not enabled leaves the state as it is, is the model's form (log entry 8). -/
def Obligations.InitConfiguresAndArms : Prop :=
  ∀ (s : State) (t : Nat),
    (s.TaskIs t .idle → s.ready = false →
      exec (.init t) s = .next { s with
        cfg := some { baud := s.prm.baud, word_len := 8, parity := false, stop_bits := 1 }
        rx_remaining := s.prm.rxbufCap
        rx_tcif := false
        rx_en := true
        armed := true
        ready := true }) ∧
    (s.TaskIs t .idle → s.ready = true → exec (.init t) s = .refused .secondInit) ∧
    (∀ ts, s.TaskIs t ts → ts ≠ .idle → exec (.init t) s = .next s)

/-- Rule R51: `SEND_LOW_RATE` returns at once before `INIT` or with no byte, else enters; phase `i` waits for `txe`, puts
`bytes[i]` on the wire and returns after the last byte.
That the entry is a step before phase 0 is read from the rule (log entry 9); that a step which is not
enabled leaves the state as it is, is the model's form (log entry 8). -/
def Obligations.LowRateSendsByteByByte : Prop :=
  ∀ (s : State) (t : Nat) (bytes : List Byte),
    (s.TaskIs t .idle → s.ready = false ∨ bytes = [] → exec (.sendLowRate t bytes) s = .next s) ∧
    (s.TaskIs t .idle → s.ready = true → bytes ≠ [] →
      exec (.sendLowRate t bytes) s = .next { s with task := s.task.set t (.sendLowRate bytes 0) }) ∧
    (∀ (i : Nat) (h : i < bytes.length), s.TaskIs t (.sendLowRate bytes i) → s.txe = true →
      exec (.sendLowRate t bytes) s = .next { s with
        wire_tx := s.wire_tx ++ [bytes[i]]
        txe := false
        task := s.task.set t (if i + 1 = bytes.length then .idle else .sendLowRate bytes (i + 1)) }) ∧
    (∀ i, s.TaskIs t (.sendLowRate bytes i) → s.txe = false → exec (.sendLowRate t bytes) s = .next s)

/-- Rule R52: the entry and the phases A, C, D, E of `SEND_DMA`, and where it waits and is refused.
That a step which is not enabled leaves the state as it is, is the model's form (log entry 8). -/
def Obligations.SendDmaRunsItsPhases : Prop :=
  ∀ (s : State) (t : Nat) (addr : Addr) (size : Count),
    (s.TaskIs t .idle → s.ready = false →
      exec (.sendDma t addr size) s = .next { s with ret := s.ret ++ [(t, .driverAbsent)] }) ∧
    (s.TaskIs t .idle → s.ready = true → size = 0 → exec (.sendDma t addr size) s = .refused .emptyTransfer) ∧
    (s.TaskIs t .idle → s.ready = true → size ≠ 0 → 2 ^ 32 < addr.toNat + size.toNat →
      exec (.sendDma t addr size) s = .refused .wrappingTransfer) ∧
    (s.TaskIs t .idle → s.ready = true → size ≠ 0 → addr.toNat + size.toNat ≤ 2 ^ 32 →
      exec (.sendDma t addr size) s = .next { s with task := s.task.set t (.sendDma addr size .a) }) ∧
    (s.TaskIs t (.sendDma addr size .a) → s.tx_lock = .free →
      exec (.sendDma t addr size) s = .next { s with
        tx_lock := .held t
        task := s.task.set t (.sendDma addr size .c) }) ∧
    (s.TaskIs t (.sendDma addr size .a) → s.tx_lock ≠ .free → exec (.sendDma t addr size) s = .next s) ∧
    (s.TaskIs t (.sendDma addr size .c) → s.tx_en = false → s.is_paused = false →
      exec (.sendDma t addr size) s = .next { s with
        tx_base := addr
        tx_size := size
        tx_ptr := addr
        tx_count := size
        tx_tcie := true
        tx_en := true
        task := s.task.set t (.sendDma addr size .d) }) ∧
    (s.TaskIs t (.sendDma addr size .c) → s.tx_en = true ∨ s.is_paused = true →
      exec (.sendDma t addr size) s = .next s) ∧
    (s.TaskIs t (.sendDma addr size .d) → s.tx_done = true →
      exec (.sendDma t addr size) s = .next { s with
        tx_done := false
        task := s.task.set t (.sendDma addr size .e) }) ∧
    (s.TaskIs t (.sendDma addr size .d) → s.tx_done = false → exec (.sendDma t addr size) s = .next s) ∧
    (s.TaskIs t (.sendDma addr size .e) →
      exec (.sendDma t addr size) s = .next { s with
        tx_lock := .free
        task := s.task.set t .idle
        ret := s.ret ++ [(t, .completed)] })

/-- Rule R53: an enabled beat puts the byte `Mem` holds at `tx_ptr` on the wire and advances by one; the last beat
retires the stream and sets `tx_tcif`; otherwise no beat happens.
That a step which is not enabled leaves the state as it is, is the model's form (log entry 8). -/
def Obligations.BeatSendsTheByteAtTxPtr : Prop :=
  ∀ s : State,
    (s.fault = none → s.tx_en = true → s.txe = true →
      exec .txBeat s = .next { s with
        wire_tx := s.wire_tx ++ [s.mem.read s.tx_ptr]
        txe := false
        tx_ptr := s.tx_ptr + 1
        tx_count := s.tx_count - 1
        tx_en := decide (s.tx_count ≠ 1)
        tx_tcif := s.tx_tcif || decide (s.tx_count = 1) }) ∧
    (s.tx_en = false ∨ s.txe = false → exec .txBeat s = .next s)

/-- Rules R54 and R55: the transmitter becomes empty; the completion interrupt clears the flag and its enable and gives
the rendezvous.
That a step which is not enabled leaves the state as it is, is the model's form (log entry 8). -/
def Obligations.TransmitterEmptiesAndCompletes : Prop :=
  ∀ s : State,
    (s.fault = none → s.txe = false → exec .txEmpty s = .next { s with txe := true }) ∧
    (s.txe = true → exec .txEmpty s = .next s) ∧
    (s.fault = none → s.armed = true → s.tx_tcif = true → s.tx_tcie = true →
      exec .txTcIsr s = .next { s with tx_tcif := false, tx_tcie := false, tx_done := true }) ∧
    (s.armed = false ∨ s.tx_tcif = false ∨ s.tx_tcie = false → exec .txTcIsr s = .next s)

/-- Rules R56 and R64: while a task awaits its transfer and no `SEND_LOW_RATE` runs, no step changes the buffer's
contents on the wire: the bytes its beats have sent stay exactly `Mem[tx_base ..]` in order, each once, through any
pauses and resumes, provided the step leaves the buffer's bytes in memory as they were (rule R127). -/
def Obligations.BeatsSendTheBufferExactlyOnce : Prop :=
  ∀ (s s' : State) (w0 : List Byte), s.Inv → (∃ ts ∈ s.task, ts.awaitsTx = true) → s.SentAfter w0 →
    (∀ i, s.nextInstr = some i → i.isLowRate = false) →
    step s = .next s' → s'.mem.slice s.tx_base s.tx_size.toNat = s.mem.slice s.tx_base s.tx_size.toNat →
    s'.tx_base = s.tx_base ∧ s'.tx_size = s.tx_size ∧ s'.SentAfter w0

/-- Rules R56 and R91: when the sender of a packet takes its completion, the wire holds the packet's whole frame after
what it held at phase C. -/
def Obligations.CompletedSendPutsItsFrameOnTheWire : Prop :=
  ∀ (s : State) (w0 : List Byte) (t : Nat) (p : Packet), s.Inv → s.FramesBuilt →
    s.task[t]? = some (.sendPacket p .d) → s.SentAfter w0 → s.tx_done = true →
    s.wire_tx = w0 ++ p.frame.bytes

/-! ### 41_flow_control.md -/

/-- Rules R60 and R61: an edge is a change of level and becomes pending; its service runs the hook of the level found.
That a step which is not enabled leaves the state as it is, is the model's form (log entry 8). -/
def Obligations.EdgeIsServicedByItsHook : Prop :=
  ∀ (s : State) (level : Bool),
    (s.fault = none → level ≠ s.fc_level →
      exec (.fcEdge level) s = .next { s with fc_level := level, fc_pend := true }) ∧
    (level = s.fc_level → exec (.fcEdge level) s = .next s) ∧
    (s.fault = none → s.armed = true → s.fc_pend = true → s.fc_level = s.prm.fcPauseLevel →
      ∃ s', exec .fcIsr s = .next s' ∧ exec .pauseTx { s with fc_pend := false } = .next s') ∧
    (s.fault = none → s.armed = true → s.fc_pend = true → s.fc_level ≠ s.prm.fcPauseLevel →
      ∃ s', exec .fcIsr s = .next s' ∧ exec .resumeTx { s with fc_pend := false } = .next s') ∧
    (s.armed = false ∨ s.fc_pend = false → exec .fcIsr s = .next s)

/-- Rules R62 and R63: the two hooks, and that each is a no-op when it does not apply. -/
def Obligations.PauseAndResumeSaveAndRestore : Prop :=
  ∀ s : State, s.fault = none →
    (s.tx_en = true →
      exec .pauseTx s = .next { s with
        tx_en := false
        remaining_count := s.tx_count
        initial_count := s.tx_size
        is_paused := true }) ∧
    (s.tx_en = false → exec .pauseTx s = .next s) ∧
    (s.is_paused = true →
      exec .resumeTx s = .next { s with
        tx_count := s.remaining_count
        tx_ptr := s.tx_base + (s.initial_count - s.remaining_count)
        tx_tcie := true
        tx_en := true
        is_paused := false }) ∧
    (s.is_paused = false → exec .resumeTx s = .next s)

/-- Rule R64: a pause and the resume that undoes it leave the live registers of the transfer as they were. -/
def Obligations.ResumeUndoesPause : Prop :=
  ∀ s : State, s.Inv → s.fault = none → s.tx_en = true →
    ∃ s1 s2, exec .pauseTx s = .next s1 ∧ exec .resumeTx s1 = .next s2 ∧
      s2 = { s with remaining_count := s.tx_count, initial_count := s.tx_size }

/-- Rule R65: while a transfer is paused no beat and no completion interrupt is enabled, and the lock is held by a task
that is blocked in phase D.
That a step which is not enabled leaves the state as it is, is the model's form (log entry 8). -/
def Obligations.PausedTransferStandsStill : Prop :=
  ∀ s : State, s.Inv → s.is_paused = true →
    exec .txBeat s = .next s ∧ exec .txTcIsr s = .next s ∧
    ∃ t ts i, s.tx_lock = .held t ∧ s.task[t]? = some ts ∧ ts.awaitsTx = true ∧ ts.instr t = some i ∧
      exec i s = .next s

/-! ### 42_transport_rx.md -/

/-- Rule R70: the two paths of a received byte, the overrun of each, and the silence before `INIT`. -/
def Obligations.ReceivedByteGoesDownItsPaths : Prop :=
  ∀ (s : State) (b : Byte) (r : RxDraw) (irq dma : Bool), s.fault = none →
    irq = decide (s.prm.rxRoute = .irqOnly ∨ s.prm.rxRoute = .both ∨ (s.prm.rxRoute = .any ∧ (r = .irq ∨ r = .both))) →
    dma = decide (s.prm.rxRoute = .dmaOnly ∨ s.prm.rxRoute = .both ∨ (s.prm.rxRoute = .any ∧ (r = .dma ∨ r = .both))) →
    (s.ready = false → exec (.rxByte b r) s = .next s) ∧
    (s.ready = true → dma = false →
      exec (.rxByte b r) s = .next { s with
        rdr := if irq && !s.rxne then b else s.rdr
        rxne := s.rxne || irq
        ore := s.ore || (irq && s.rxne) }) ∧
    (s.ready = true → dma = true → s.rx_en = true → s.ReceiveOk →
      exec (.rxByte b r) s = .next { s with
        rdr := if irq && !s.rxne then b else s.rdr
        rxne := s.rxne || irq
        ore := s.ore || (irq && s.rxne)
        rx_buf := s.rx_buf.set (s.prm.rxbufCap.toNat - s.rx_remaining.toNat) b
        rx_remaining := s.rx_remaining - 1
        rx_en := decide (s.rx_remaining ≠ 1)
        rx_tcif := s.rx_tcif || decide (s.rx_remaining = 1) }) ∧
    (s.ready = true → dma = true → s.rx_en = false →
      exec (.rxByte b r) s = .next { s with fault := some (.rxDmaOverrun b) })

/-- Rule R71: a line error sets its flag; with a byte it also makes the path updates of rule R70, and a fault of these
leaves the flag as it was. -/
def Obligations.LineErrorSetsItsFlag : Prop :=
  ∀ (s : State) (kind : LineError) (r : RxDraw), s.fault = none →
    (∀ d, s.ready = false → exec (.rxError kind d r) s = .next s) ∧
    (s.ready = true →
      exec (.rxError kind none r) s = .next { s with
        pe := s.pe || kind == .pe
        fe := s.fe || kind == .fe
        ne := s.ne || kind == .ne }) ∧
    (∀ b s', s.ready = true → exec (.rxByte b r) s = .next s' → s'.fault = none →
      exec (.rxError kind (some b) r) s = .next { s' with
        pe := s.pe || kind == .pe
        fe := s.fe || kind == .fe
        ne := s.ne || kind == .ne }) ∧
    (∀ b s', s.ready = true → exec (.rxByte b r) s = .next s' → s'.fault ≠ none →
      exec (.rxError kind (some b) r) s = .next s')

/-- Rules R72 and R73: the idle line, and the byte interrupt with its push, its silent drop and its clearing of the
flags.
That a step which is not enabled leaves the state as it is, is the model's form (log entry 8). -/
def Obligations.IdleLineAndByteInterrupt : Prop :=
  ∀ s : State,
    (s.fault = none → s.ready = true → exec .rxIdle s = .next { s with idle := true }) ∧
    (s.ready = false → exec .rxIdle s = .next s) ∧
    (s.fault = none → s.armed = true →
      s.rxne = true ∨ s.pe = true ∨ s.fe = true ∨ s.ne = true ∨ s.ore = true →
      exec .rxneIsr s = .next { s with
        byteq := if s.rxne = true ∧ s.byteq.length < 1024 then s.byteq ++ [s.rdr] else s.byteq
        rxne := false
        pe := false
        fe := false
        ne := false
        ore := false }) ∧
    (s.armed = false ∨ (s.rxne = false ∧ s.pe = false ∧ s.fe = false ∧ s.ne = false ∧ s.ore = false) →
      exec .rxneIsr s = .next s)

/-- Rule R74: the completion handler of either cause.
That a step which is not enabled leaves the state as it is, is the model's form (log entry 8). -/
def Obligations.ReceiveCompletionHandsOff : Prop :=
  ∀ (s : State) (cause : RxCause) (n : Nat), s.ReceiveOk →
    n = s.prm.rxbufCap.toNat - s.rx_remaining.toNat →
    (s.fault = none → s.armed = true → (cause = .tc ∧ s.rx_tcif = true ∨ cause = .idle ∧ s.idle = true) →
      s.stage.length + n ≤ s.prm.stageCap →
      exec (.rxCompleteIsr cause) s = .next { s with
        rx_tcif := s.rx_tcif && decide (cause = .idle)
        idle := s.idle && decide (cause = .tc)
        diag_log := s.diag_log ++ [.rxCheck n]
        stage := s.stage ++ s.rx_buf.take n
        rx_buf := List.replicate s.prm.rxbufCap.toNat 0
        rx_remaining := s.prm.rxbufCap
        rx_en := true
        rx_done := true }) ∧
    (s.fault = none → s.armed = true → (cause = .tc ∧ s.rx_tcif = true ∨ cause = .idle ∧ s.idle = true) →
      s.prm.stageCap < s.stage.length + n →
      exec (.rxCompleteIsr cause) s = .next { s with fault := some (.rxStageOverflow s.stage.length n) }) ∧
    (s.armed = false ∨ (cause = .tc ∧ s.rx_tcif = false) ∨ (cause = .idle ∧ s.idle = false) →
      exec (.rxCompleteIsr cause) s = .next s)

/-- Rules R75 and R76: the timed read of the Byte Queue, its wait and the end of its window.
That a step which is not enabled leaves the state as it is, is the model's form (log entry 8). -/
def Obligations.TimedReadTakesOneByteOrNone : Prop :=
  ∀ (s : State) (t timeout : Nat),
    (s.TaskIs t .idle → s.ready = false →
      exec (.recvTimeout t timeout) s = .next { s with ret := s.ret ++ [(t, .notFound)] }) ∧
    (s.TaskIs t .idle → s.ready = true →
      exec (.recvTimeout t timeout) s = .next { s with task := s.task.set t .recvTimeout }) ∧
    (∀ b rest, s.TaskIs t .recvTimeout → s.byteq = b :: rest →
      exec (.recvTimeout t timeout) s = .next { s with
        byteq := rest
        task := s.task.set t .idle
        ret := s.ret ++ [(t, .found b)] } ∧
      exec (.timeoutExpire t) s = .next s) ∧
    (s.TaskIs t .recvTimeout → s.byteq = [] →
      exec (.recvTimeout t timeout) s = .next s ∧
      exec (.timeoutExpire t) s = .next { s with
        task := s.task.set t .idle
        ret := s.ret ++ [(t, .notFound)] }) ∧
    (∀ ts, s.TaskIs t ts → ts ≠ .recvTimeout → exec (.timeoutExpire t) s = .next s)

/-- Rule R77: the poll of the hand-off stage, and the refusal of any other caller. -/
def Obligations.PollDrainsTheStage : Prop :=
  ∀ (s : State) (t max : Nat),
    (s.TaskIs t .idle → t = s.prm.framingTask → s.ready = false ∨ s.rx_done = false →
      exec (.getAvailable t max) s = .next { s with ret := s.ret ++ [(t, .available [])] }) ∧
    (s.TaskIs t .idle → t = s.prm.framingTask → s.ready = true → s.rx_done = true →
      exec (.getAvailable t max) s = .next { s with
        stage := s.stage.drop max
        rx_done := decide (s.stage.drop max ≠ [])
        ret := s.ret ++ [(t, .available (s.stage.take max))] }) ∧
    (∀ ts, s.TaskIs t ts → t ≠ s.prm.framingTask → exec (.getAvailable t max) s = .refused (.notFramingTask t))

/-- Rule R78, DMA path, on 92_eei_decisions.md D10: from any safe state of a ready block, a step without a fault adds to the
stream of rule R78 the bytes it offered to the DMA path and nothing else. The hand-off stage that carries the bytes from
`RX_COMPLETE_ISR` to `GET_AVAILABLE` is rule R74's "SPEC'S ADDITION", decision D10, which errs toward proving (log entry
19): the statement is of the spec's block and rests on that stage. -/
def Obligations.ReceiveStreamLosesNothing : Prop :=
  ∀ s s' : State, s.Inv → s.ready = true → step s = .next s' → s'.fault = none →
    s'.dmaStream = s.dmaStream ++ (match s.nextInstr with
      | some i => i.dmaOffer s.prm
      | none => [])

/-- Rule R78, byte-interrupt path: what `RECV_TIMEOUT` calls have returned, then `byteq`, then the unread data register,
grows in order by the byte a step offers to the interrupt path; bytes are missing only by overrun or a full queue. -/
def Obligations.ByteQueueKeepsArrivalOrder : Prop :=
  ∀ (s s' : State) (offer : List Byte), s.ready = true → step s = .next s' → s'.fault = none →
    offer = (match s.nextInstr with
      | some i => i.irqOffer s.prm
      | none => []) →
    s'.irqStream.Sublist (s.irqStream ++ offer) ∧
    (s.rxne = false ∨ offer = [] → s.byteq.length < 1024 → s'.irqStream = s.irqStream ++ offer)

/-- Rule R79: the steps of each receive path neither write nor read the other path's fields. `RXNE_ISR`, `RECV_TIMEOUT`,
`TIMEOUT_EXPIRE` are steps of the byte-interrupt path; `RX_COMPLETE_ISR`, `GET_AVAILABLE`, `FRAMER_POLL` of the DMA path;
`RX_IDLE` touches neither path's fields. `RX_BYTE` and `RX_ERROR` make one update in each path (rule R70): with the other
path's fields replaced by any others, each update does the same to its own path, and a byte that a path does not see leaves
that path alone. -/
def Obligations.ReceivePathsDoNotInteract : Prop :=
  ∀ (i : Instr) (s s' u : State), exec i s = .next s' →
    ((i = .rxneIsr ∨ (∃ t n, i = .recvTimeout t n) ∨ (∃ t, i = .timeoutExpire t) ∨ i = .rxIdle) →
      s'.withDmaPath s = s' ∧ exec i (s.withDmaPath u) = .next (s'.withDmaPath u)) ∧
    (((∃ c, i = .rxCompleteIsr c) ∨ (∃ t n, i = .getAvailable t n) ∨ i = .framerPoll ∨ i = .rxIdle) →
      s'.withIrqPath s = s' ∧ exec i (s.withIrqPath u) = .next (s'.withIrqPath u)) ∧
    (((∃ b r, i = .rxByte b r) ∨ (∃ k d r, i = .rxError k d r)) →
      (∀ s'', exec i (s.withDmaPath u) = .next s'' → s'.fault = none → s''.fault = none →
        s'' = s'.withDmaPath s'') ∧
      (∀ s'', exec i (s.withIrqPath u) = .next s'' → s'' = s'.withIrqPath s'') ∧
      (i.dmaOffer s.prm = [] → s'.withDmaPath s = s') ∧
      (i.irqOffer s.prm = [] →
        s'.rdr = s.rdr ∧ s'.rxne = s.rxne ∧ s'.ore = s.ore ∧ s'.byteq = s.byteq ∧
        ((∃ b r, i = .rxByte b r) → s'.withIrqPath s = s')))

/-! ### 43_framer.md -/

/-- Rules R81 and R82: hunting for the two start bytes. -/
def Obligations.FramerHuntsForStartBytes : Prop :=
  ∀ (s : State) (b : Byte), s.FramerIdle →
    (s.fs = .waitStart1 → exec (.feed b) s = .next { s with fs := if b = 0xBC then .waitStart2 else .waitStart1 }) ∧
    (s.fs = .waitStart2 → exec (.feed b) s = .next { s with fs := if b = 0xCF then .waitType else .waitStart1 })

/-- Rules R83 and R84: the type starts the checksum; the length is folded, or rejected above `MTU`. -/
def Obligations.FramerTakesTypeAndLength : Prop :=
  ∀ (s : State) (b : Byte), s.FramerIdle →
    (s.fs = .waitType →
      exec (.feed b) s = .next { s with f_type := b, f_ck0 := b, f_ck1 := b, fs := .waitLength }) ∧
    (s.fs = .waitLength → s.prm.mtu.toNat < b.toNat →
      exec (.feed b) s = .next { s with f_length := b, fs := .waitStart1 }) ∧
    (s.fs = .waitLength → b.toNat ≤ s.prm.mtu.toNat →
      exec (.feed b) s = .next { s with
        f_length := b
        f_ck0 := s.f_ck0 + b
        f_ck1 := s.f_ck1 + (s.f_ck0 + b)
        f_idx := 0
        fs := if 0 < b.toNat then .waitData else .waitChecksum1 })

/-- Rules R85 and R88: a payload byte is stored at `f_idx` and folded; the last one leads to the checksum bytes. -/
def Obligations.FramerTakesPayload : Prop :=
  ∀ (s : State) (b : Byte), s.FramerIdle → s.FramerOk → s.fs = .waitData →
    exec (.feed b) s = .next { s with
      f_data := s.f_data.set s.f_idx b
      f_ck0 := s.f_ck0 + b
      f_ck1 := s.f_ck1 + (s.f_ck0 + b)
      f_idx := s.f_idx + 1
      fs := if s.f_idx + 1 = s.f_length.toNat then .waitChecksum1 else .waitData }

/-- Rules R86 and R87: the two checksum bytes; on a match of the second the assembled packet is dispatched, and in either
outcome the framer returns to `WaitStart1`. -/
def Obligations.FramerChecksBothSums : Prop :=
  ∀ (s : State) (b : Byte), s.FramerIdle → s.FramerOk →
    (s.fs = .waitChecksum1 →
      exec (.feed b) s = .next { s with fs := if b = s.f_ck0 then .waitChecksum2 else .waitStart1 }) ∧
    (s.fs = .waitChecksum2 → b ≠ s.f_ck1 → exec (.feed b) s = .next { s with fs := .waitStart1 }) ∧
    (s.fs = .waitChecksum2 → b = s.f_ck1 →
      ∃ d, exec (.dispatch { type := s.f_type, length := s.f_length, data := s.f_data.take s.f_length.toNat }) s = .next d ∧
        exec (.feed b) s = .next { d with fs := .waitStart1 })

/-- 30_encoding.md rule R49 with 43_framer.md's table: the row that `(fs, b)` selects performs what `FEED(b)` performs,
and ends in the table's next state. -/
def Obligations.SelectedRowIsFeed : Prop :=
  ∀ (s : State) (b : Byte), s.FramerIdle → s.FramerOk →
    ∃ s', exec (s.feedRow b) s = .next s' ∧ exec (.feed b) s = .next s' ∧ (s.feedRow b).rowNextState = some s'.fs

/-- Rules R81 to R84, row by row: each row of the first four states completes with the table's next state and registers
exactly under its own condition, and otherwise is not taken.
That a step which is not enabled leaves the state as it is, is the model's form (log entry 8). -/
def Obligations.RowsUpToLengthComplete : Prop :=
  ∀ (s : State) (b : Byte), s.FramerIdle →
    exec .feedWaitStart1Sync s = .next (if s.fs = .waitStart1 then { s with fs := .waitStart2 } else s) ∧
    (s.fs = .waitStart1 ∧ b ≠ 0xBC → exec (.feedWaitStart1Other b) s = .next { s with fs := .waitStart1 }) ∧
    (s.fs ≠ .waitStart1 ∨ b = 0xBC → exec (.feedWaitStart1Other b) s = .next s) ∧
    exec .feedWaitStart2Sync s = .next (if s.fs = .waitStart2 then { s with fs := .waitType } else s) ∧
    exec (.feedWaitStart2Other b) s =
      .next (if s.fs = .waitStart2 ∧ b ≠ 0xCF then { s with fs := .waitStart1 } else s) ∧
    exec (.feedWaitTypeAny b) s =
      .next (if s.fs = .waitType then { s with f_type := b, f_ck0 := b, f_ck1 := b, fs := .waitLength } else s) ∧
    exec (.feedWaitLengthOversize b) s =
      .next (if s.fs = .waitLength ∧ s.prm.mtu.toNat < b.toNat then { s with f_length := b, fs := .waitStart1 } else s) ∧
    exec .feedWaitLengthZero s =
      .next (if s.fs = .waitLength then
        { s with f_length := 0, f_ck1 := s.f_ck1 + s.f_ck0, f_idx := 0, fs := .waitChecksum1 } else s) ∧
    exec (.feedWaitLengthData b) s =
      .next (if s.fs = .waitLength ∧ 1 ≤ b.toNat ∧ b.toNat ≤ s.prm.mtu.toNat then
        { s with
          f_length := b
          f_ck0 := s.f_ck0 + b
          f_ck1 := s.f_ck1 + (s.f_ck0 + b)
          f_idx := 0
          fs := .waitData } else s)

/-- Rules R85 to R87, row by row, as `RowsUpToLengthComplete`. -/
def Obligations.RowsFromDataComplete : Prop :=
  ∀ (s : State) (b : Byte), s.FramerIdle → s.FramerOk →
    (∀ i, i = .feedWaitDataMore b ∧ s.f_idx + 1 < s.f_length.toNat ∨
          i = .feedWaitDataLast b ∧ s.f_idx + 1 = s.f_length.toNat →
      s.fs = .waitData → exec i s = .next { s with
        f_data := s.f_data.set s.f_idx b
        f_ck0 := s.f_ck0 + b
        f_ck1 := s.f_ck1 + (s.f_ck0 + b)
        f_idx := s.f_idx + 1
        fs := if i = .feedWaitDataLast b then .waitChecksum1 else .waitData }) ∧
    (s.fs ≠ .waitData ∨ s.f_idx + 1 ≠ s.f_length.toNat → exec (.feedWaitDataLast b) s = .next s) ∧
    (s.fs ≠ .waitData ∨ s.f_idx + 1 = s.f_length.toNat → exec (.feedWaitDataMore b) s = .next s) ∧
    exec (.feedWaitChecksum1Match b) s =
      .next (if s.fs = .waitChecksum1 ∧ b = s.f_ck0 then { s with fs := .waitChecksum2 } else s) ∧
    exec (.feedWaitChecksum1Mismatch b) s =
      .next (if s.fs = .waitChecksum1 ∧ b ≠ s.f_ck0 then { s with fs := .waitStart1 } else s) ∧
    (s.fs = .waitChecksum2 → b = s.f_ck1 →
      ∃ d, exec (.dispatch { type := s.f_type, length := s.f_length, data := s.f_data.take s.f_length.toNat }) s = .next d ∧
        exec (.feedWaitChecksum2Match b) s = .next { d with fs := .waitStart1 }) ∧
    (s.fs ≠ .waitChecksum2 ∨ b ≠ s.f_ck1 → exec (.feedWaitChecksum2Match b) s = .next s) ∧
    exec (.feedWaitChecksum2Mismatch b) s =
      .next (if s.fs = .waitChecksum2 ∧ b ≠ s.f_ck1 then { s with fs := .waitStart1 } else s)

/-- Rule R89: a poll of the framing task is `GET_AVAILABLE(POLL_MAX)` and then `FEED` of each byte it returned, in order,
and it completes. -/
def Obligations.PollFeedsWhatItReads : Prop :=
  ∀ s : State, s.FramerIdle → s.FramerOk →
    ∃ s1 s', exec (.getAvailable s.prm.framingTask s.prm.pollMax) s = .next s1 ∧
      exec .framerPoll s = .next s' ∧
      ∃ out, s1.ret = s.ret ++ [(s.prm.framingTask, .available out)] ∧ execAll (out.map .feed) s1 = .next s'

/-- 30_encoding.md rules R40 and R46: any frame, well formed or not, is taken in byte by byte by `FEED` in sequence order,
and this completes from any state of the framer.
That the `FRAME` row is this run of the framer is read from the table (log entry 11). -/
def Obligations.FrameIsFedInSequenceOrder : Prop :=
  ∀ (s : State) (f : Frame), s.FramerIdle → s.FramerOk →
    ∃ s', exec (.frame f) s = .next s' ∧
      execAll (([0xBC, 0xCF, f.type, f.length] ++ f.data ++ [f.cksum0, f.cksum1]).map .feed) s = .next s'

/-- Rules R90(a) and R95: the frame of a packet, fed from `WaitStart1`, dispatches exactly that packet, once, and returns
to `WaitStart1`; nothing else of the block changes but the framer registers. -/
def Obligations.SerializedFrameIsDispatchedOnce : Prop :=
  ∀ (s : State) (p : Packet), s.FramerIdle → s.FramerOk → s.fs = .waitStart1 → p.wf = true → p.length ≤ s.prm.mtu →
    ∃ s' d, exec (.frame p.frame) s = .next s' ∧ exec (.dispatch p) s = .next d ∧
      s' = { d with
        fs := .waitStart1
        f_type := p.type
        f_length := p.length
        f_data := p.data ++ s.f_data.drop p.length.toNat
        f_idx := p.length.toNat
        f_ck0 := p.frame.cksum0
        f_ck1 := p.frame.cksum1 }

/-- Rule R90(b): corrupting exactly one of the two checksum bytes of a frame makes the framer dispatch nothing and return
to `WaitStart1`; a corrupted `cksum0` does so before `cksum1` arrives, which is then a byte of the hunt (rule R81).
Rule R90(c): a length byte above `MTU` resynchronises at once, dispatching nothing. -/
def Obligations.CorruptedFramesDispatchNothing : Prop :=
  ∀ (s : State) (f : Frame), s.FramerIdle → s.FramerOk → s.fs = .waitStart1 →
    (f.wf = true → f.length ≤ s.prm.mtu → f.cksum0 = f.packet.frame.cksum0 → f.cksum1 ≠ f.packet.frame.cksum1 →
      ∃ s', exec (.frame f) s = .next s' ∧ s'.fs = .waitStart1 ∧
        s'.dispatch_log = s.dispatch_log ∧ s'.diag_log = s.diag_log) ∧
    (f.wf = true → f.length ≤ s.prm.mtu → f.cksum0 ≠ f.packet.frame.cksum0 →
      ∃ s', exec (.frame f) s = .next s' ∧ s'.fs = (if f.cksum1 = 0xBC then .waitStart2 else .waitStart1) ∧
        s'.dispatch_log = s.dispatch_log ∧ s'.diag_log = s.diag_log) ∧
    (s.prm.mtu < f.length →
      ∃ s', execAll [.feed 0xBC, .feed 0xCF, .feed f.type, .feed f.length] s = .next s' ∧ s'.fs = .waitStart1 ∧
        s'.dispatch_log = s.dispatch_log ∧ s'.diag_log = s.diag_log)

/-! ### 44_serializer_dispatch.md and the encodings -/

/-- Rule R43: the fold over `type, length, data` has the closed forms of the rule. -/
def Obligations.ChecksumHasItsClosedForms : Prop :=
  ∀ (type length : Byte) (data c : List Byte), c = type :: length :: data →
    (checksum type length data).1.toNat = ((List.range c.length).map (fun k => (c.getD k 0).toNat)).sum % 256 ∧
    (checksum type length data).2.toNat =
      ((List.range c.length).map (fun k => (c.length - k) * (c.getD k 0).toNat)).sum % 256

/-- Rule R91: the validation of `SEND_PACKET` and its phases M to Z, of a Packet value.
Three clauses are the model's reading: that phase S is also the step `SERIALIZE` (log entry 12), that an unready block under
`SEND_BEFORE_INIT = noop` passes phase V, and that its phase `dma0` goes on to phase A if `INIT` has run and else to phase Z,
which returns `OK` (log entry 16).
That a step which is not enabled leaves the state as it is, is the model's form (log entry 8). -/
def Obligations.SendPacketRunsItsPhases : Prop :=
  ∀ (s : State) (t : Nat) (p : Packet), p.wf = true →
    (s.TaskIs t .idle → s.prm.mtu < p.length →
      exec (.sendPacket t p) s = .next { s with fault := some (.assertMtu p.length) }) ∧
    (s.TaskIs t .idle → p.length ≤ s.prm.mtu → s.ready = false → s.prm.sendBeforeInit = .fault →
      exec (.sendPacket t p) s = .next { s with fault := some .sendNotReady }) ∧
    (s.TaskIs t .idle → p.length ≤ s.prm.mtu → s.ready = true ∨ s.prm.sendBeforeInit = .noop →
      exec (.sendPacket t p) s = .next { s with task := s.task.set t (.sendPacket p .m) }) ∧
    (s.TaskIs t (.sendPacket p .m) → s.send_mutex = .free →
      exec (.sendPacket t p) s = .next { s with
        send_mutex := .held t
        task := s.task.set t (.sendPacket p .s) }) ∧
    (s.TaskIs t (.sendPacket p .m) → s.send_mutex ≠ .free → exec (.sendPacket t p) s = .next s) ∧
    (s.TaskIs t (.sendPacket p .s) → s.send_mutex = .held t →
      ∃ s', exec (.sendPacket t p) s = .next s' ∧ exec (.serialize p) s = .next s') ∧
    (s.TaskIs t (.sendPacket p .dma0) →
      exec (.sendPacket t p) s = .next { s with
        task := s.task.set t (.sendPacket p (if s.ready then .a else .z)) }) ∧
    (s.TaskIs t (.sendPacket p .a) → s.tx_lock = .free →
      exec (.sendPacket t p) s = .next { s with
        tx_lock := .held t
        task := s.task.set t (.sendPacket p .c) }) ∧
    (s.TaskIs t (.sendPacket p .a) → s.tx_lock ≠ .free → exec (.sendPacket t p) s = .next s) ∧
    (s.TaskIs t (.sendPacket p .c) → s.tx_en = false → s.is_paused = false →
      exec (.sendPacket t p) s = .next { s with
        tx_base := s.prm.txfBase
        tx_size := BitVec.ofNat 32 (p.length.toNat + 6)
        tx_ptr := s.prm.txfBase
        tx_count := BitVec.ofNat 32 (p.length.toNat + 6)
        tx_tcie := true
        tx_en := true
        task := s.task.set t (.sendPacket p .d) }) ∧
    (s.TaskIs t (.sendPacket p .c) → s.tx_en = true ∨ s.is_paused = true → exec (.sendPacket t p) s = .next s) ∧
    (s.TaskIs t (.sendPacket p .d) → s.tx_done = true →
      exec (.sendPacket t p) s = .next { s with
        tx_done := false
        task := s.task.set t (.sendPacket p .e) }) ∧
    (s.TaskIs t (.sendPacket p .d) → s.tx_done = false → exec (.sendPacket t p) s = .next s) ∧
    (s.TaskIs t (.sendPacket p .e) →
      exec (.sendPacket t p) s = .next { s with
        tx_lock := .free
        task := s.task.set t (.sendPacket p .z) }) ∧
    (s.TaskIs t (.sendPacket p .z) →
      exec (.sendPacket t p) s = .next { s with
        send_mutex := .free
        task := s.task.set t .idle
        ret := s.ret ++ [(t, .ok)] })

/-- Rule R92: the frame build writes the frame of rule R40 with the checksum of rule R43 at `TXF_BASE`, byte by byte, and
no other byte of memory. That `SERIALIZE` is the holder's phase S is read from the rule (log entry 12); that the sender's
next phase is A, or `dma0` in a block that is not ready, is the model's reading of rule R91 (log entry 16). -/
def Obligations.SerializeWritesTheFrame : Prop :=
  ∀ (s : State) (t : Nat) (p : Packet), s.prm.Valid → s.mem.Wf → p.wf = true → p.length ≤ s.prm.mtu →
    s.send_mutex = .held t → s.TaskIs t (.sendPacket p .s) →
    ∃ s', exec (.serialize p) s = .next s' ∧
      s' = { s with mem := s'.mem, task := s.task.set t (.sendPacket p (if s.ready then .a else .dma0)) } ∧
      s'.mem.slice s.prm.txfBase (p.length.toNat + 6) =
        [0xBC, 0xCF, p.type, p.length] ++ p.data ++
          [(checksum p.type p.length p.data).1, (checksum p.type p.length p.data).2] ∧
      ∀ a : Addr, a.toNat < s.prm.txfBase.toNat ∨ s.prm.txfBase.toNat + p.length.toNat + 6 ≤ a.toNat →
        s'.mem.read a = s.mem.read a

/-- Rule R93: the routing by group tag, first match in the order of the rule; an unknown group is logged and dropped.
Log entry 10: the step of its
own. -/
def Obligations.DispatchRoutesByGroup : Prop :=
  ∀ (s : State) (p : Packet) (g : Byte), s.FramerIdle → p.wf = true → g = p.type &&& s.prm.groupMask →
    (g = s.prm.groupRadio → exec (.dispatch p) s = .next { s with dispatch_log := s.dispatch_log ++ [(.radio, p)] }) ∧
    (g ≠ s.prm.groupRadio → g = s.prm.groupPm →
      exec (.dispatch p) s = .next { s with dispatch_log := s.dispatch_log ++ [(.pm, p)] }) ∧
    (g ≠ s.prm.groupRadio → g ≠ s.prm.groupPm → g = s.prm.groupOw →
      exec (.dispatch p) s = .next { s with dispatch_log := s.dispatch_log ++ [(.ow, p)] }) ∧
    (g ≠ s.prm.groupRadio → g ≠ s.prm.groupPm → g ≠ s.prm.groupOw →
      exec (.dispatch p) s = .next { s with diag_log := s.diag_log ++ [.unknownGroup p] })

/-- Words written out from rule R49's OPIDs, the table's fixed `FEED` bytes and rule R40's frame decode to their
operations; the operand bytes are the model's own (log entry 3). -/
def Obligations.TableWordsDecode : Prop :=
  decodeTableWord 8 0x01 = some (.init 0) ∧
  decodeTableWord 8 0x25 = some .resumeTx ∧
  decodeTableWord 8 0x30 = some .txBeat ∧
  decodeTableWord 16 0xBC08 = some (.feed 0xBC) ∧
  decodeTableWord 8 0xBC = some .feedWaitStart1Sync ∧
  decodeTableWord 48 0x00000000CFBC = some (.frame { type := 0, length := 0, data := [], cksum0 := 0, cksum1 := 0 }) ∧
  decodeTableWord 64 0x1968BBAA0201CFBC =
    some (.frame { type := 1, length := 2, data := [0xAA, 0xBB], cksum0 := 0x68, cksum1 := 0x19 })

/-- Every well-formed operation, in its row's format and with any bytes after it, decodes to itself. -/
def Obligations.DecodeUndoesEncode : Prop :=
  ∀ (i : Instr) (rest : List Byte), i.wf = true → decode i.format (encode i ++ rest) = .ok (i, rest)

/-- Every word has one meaning: what decodes is well formed, and is exactly the word of what it decodes to. -/
def Obligations.DecodingIsUnambiguous : Prop :=
  ∀ (fmt : Format) (w : List Byte) (i : Instr) (rest : List Byte), decode fmt w = .ok (i, rest) →
    i.wf = true ∧ i.format = fmt ∧ w = encode i ++ rest

/-! ### The step -/

/-- 00_scope.md rule R6: the next offered step is taken from the front and runs the decoded operation, the operation
its task is inside, or the host's write, as Machine/Fetch.lean says it (its effect: `HostWritesItsOwnMemory`); with none
offered, or for an idle task, nothing happens; a word that names no operation and a task that does not exist are refused (log
entry 4).
That the order stands in the state as offered steps is the model's choice (log entry 2). -/
def Obligations.StepRunsTheOfferedOperation : Prop :=
  ∀ s : State,
    (s.sched = [] → step s = .next s) ∧
    (∀ fmt word rest i tail, s.sched = .op fmt word :: rest → decode fmt word = .ok (i, tail) →
      step s = exec i { s with sched := rest }) ∧
    (∀ fmt word rest e, s.sched = .op fmt word :: rest → decode fmt word = .error e →
      step s = .refused (.undecodable e)) ∧
    (∀ t rest ts i, s.sched = .proceed t :: rest → s.task[t]? = some ts → ts.instr t = some i →
      step s = exec i { s with sched := rest }) ∧
    (∀ t rest, s.sched = .proceed t :: rest → s.task[t]? = some .idle → step s = .next { s with sched := rest }) ∧
    (∀ t rest, s.sched = .proceed t :: rest → s.task[t]? = none → step s = .refused (.noSuchTask t)) ∧
    (∀ a v rest, s.sched = .hostWrite a v :: rest → step s = hostStore a v { s with sched := rest }) ∧
    (∀ a v rest, s.sched = .hostWrite a v :: rest → s.fault ≠ none → step s = .next { s with sched := rest })

/-- 20_memory.md rule R30 and 93_implementation_defined.md U11: the host writes one byte of its own memory; inside `txf`
or a transmit buffer in flight the run is refused.
That the host's write is an offered step and that a write inside `txf` is
refused, is the model's choice (log entry 14). -/
def Obligations.HostWritesItsOwnMemory : Prop :=
  ∀ (s : State) (a : Addr) (v : Byte) (rest : List Event), s.mem.Wf → s.sched = .hostWrite a v :: rest →
    s.fault = none →
    ((s.prm.txfBase.toNat ≤ a.toNat ∧ a.toNat < s.prm.txfBase.toNat + s.prm.mtu.toNat + 6) →
      step s = .refused (.frameBufferWrite a)) ∧
    ((a.toNat < s.prm.txfBase.toNat ∨ s.prm.txfBase.toNat + s.prm.mtu.toNat + 6 ≤ a.toNat) →
      ((∃ (t : Nat) (addr : Addr) (size : Count) (ph : DmaPhase),
          s.task[t]? = some (TaskState.sendDma addr size ph) ∧ addr.toNat ≤ a.toNat ∧
          a.toNat < addr.toNat + size.toNat) → step s = .refused (.bufferInFlight a)) ∧
      ((∀ (t : Nat) (addr : Addr) (size : Count) (ph : DmaPhase), s.task[t]? = some (TaskState.sendDma addr size ph) →
          a.toNat < addr.toNat ∨ addr.toNat + size.toNat ≤ a.toNat) →
        ∃ s', step s = .next s' ∧ s' = { s with sched := rest, mem := s'.mem } ∧ s'.mem.read a = v ∧
          ∀ a', a' ≠ a → s'.mem.read a' = s.mem.read a'))

/-! ### 60_exceptions.md: faults and interrupts -/

/-- Rule R101: once a fault is raised, no operation of any agent changes the state.
That a step which is not enabled leaves the state as it is, is the model's form (log entry 8). -/
def Obligations.FaultFreezesTheState : Prop :=
  ∀ (i : Instr) (s : State), s.fault ≠ none → exec i s = .next s

/-- Rule R101: a step that raises a fault changes nothing else, and rule R102 says which operations raise which. -/
def Obligations.RaisingAFaultChangesNothingElse : Prop :=
  ∀ (i : Instr) (s s' : State) (c : FaultCode), s.fault = none → exec i s = .next s' → s'.fault = some c →
    s' = { s with fault := some c } ∧
    (match c with
     | .assertMtu n => ∃ t p, i = .sendPacket t p ∧ n = p.length ∧ s.prm.mtu < p.length
     | .sendNotReady => ∃ t p, i = .sendPacket t p ∧ s.ready = false ∧ p.length ≤ s.prm.mtu
     | .rxDmaOverrun b => i.dmaOffer s.prm = [b] ∧ s.ready = true ∧ s.rx_en = false
     | .rxStageOverflow m n => ∃ cause, i = .rxCompleteIsr cause ∧ m = s.stage.length ∧ n = s.rxValid ∧
         s.prm.stageCap < m + n)

/-- Rule R105: a pending condition stays until its own service step runs (`INIT`, before which nothing is received,
arms the receive stream afresh). -/
def Obligations.PendingFlagsStayUntilServiced : Prop :=
  ∀ (i : Instr) (s s' : State), exec i s = .next s' →
    (i ≠ .rxneIsr → (s.rxne = true → s'.rxne = true) ∧ (s.pe = true → s'.pe = true) ∧ (s.fe = true → s'.fe = true) ∧
      (s.ne = true → s'.ne = true) ∧ (s.ore = true → s'.ore = true)) ∧
    (i ≠ .rxCompleteIsr .idle → s.idle = true → s'.idle = true) ∧
    (i ≠ .rxCompleteIsr .tc → (∀ t, i ≠ .init t) → s.rx_tcif = true → s'.rx_tcif = true) ∧
    (i ≠ .txTcIsr → (s.tx_tcif = true → s'.tx_tcif = true) ∧ (s.tx_tcie = true → s'.tx_tcie = true)) ∧
    (i ≠ .fcIsr → s.fc_pend = true → s'.fc_pend = true)

/-- Rules R22 and R107: an interrupt service step never waits for or takes anything: it completes from every safe state,
leaves both locks and every task alone, and never clears a rendezvous. -/
def Obligations.ServiceStepsOnlyGive : Prop :=
  ∀ (i : Instr) (s : State), i.isIrq = true → s.ReceiveOk →
    ∃ s', exec i s = .next s' ∧ s'.tx_lock = s.tx_lock ∧ s'.send_mutex = s.send_mutex ∧ s'.task = s.task ∧
      (s.tx_done = true → s'.tx_done = true) ∧ (s.rx_done = true → s'.rx_done = true)

/-! ### 10_state.md: who writes what -/

/-- Rules R11, R12, R15 and R21: only `INIT` makes the block ready, configures and arms it, and nothing clears that; only
`FC_EDGE` moves the level of the pin. -/
def Obligations.ReadyAndPinHaveOneWriter : Prop :=
  ∀ (i : Instr) (s s' : State), exec i s = .next s' →
    (s.ready = true → s'.ready = true) ∧ (s.armed = true → s'.armed = true) ∧
    ((∀ t, i ≠ .init t) → s'.ready = s.ready ∧ s'.armed = s.armed ∧ s'.cfg = s.cfg) ∧
    ((∀ level, i ≠ .fcEdge level) → s'.fc_level = s.fc_level)

/-- Rule R20: the pause state is "mutated only from the flow-control edge interrupt". -/
def Obligations.OnlyFlowControlWritesThePauseState : Prop :=
  ∀ (i : Instr) (s s' : State), i.isFlowControl = false → exec i s = .next s' →
    s'.is_paused = s.is_paused ∧ s'.initial_count = s.initial_count ∧ s'.remaining_count = s.remaining_count

/-- Rule R23: the framer registers are written only by `FEED` and what is made of it. -/
def Obligations.OnlyTheFramerWritesItsRegisters : Prop :=
  ∀ (i : Instr) (s s' : State), i.isFramer = false → exec i s = .next s' →
    s'.fs = s.fs ∧ s'.f_type = s.f_type ∧ s'.f_length = s.f_length ∧ s'.f_data = s.f_data ∧ s'.f_idx = s.f_idx ∧
    s'.f_ck0 = s.f_ck0 ∧ s'.f_ck1 = s.f_ck1

/-- Rule R25: the output traces are append-only (and so is the model's own trace of results). -/
def Obligations.OutputsAreAppendOnly : Prop :=
  ∀ (i : Instr) (s s' : State), exec i s = .next s' →
    s.wire_tx <+: s'.wire_tx ∧ s.dispatch_log <+: s'.dispatch_log ∧ s.diag_log <+: s'.diag_log ∧ s.ret <+: s'.ret

/-- Rule R14: a byte reaches the wire only when the transmitter is empty, one at a time, from a beat or from a phase of
`SEND_LOW_RATE`, and the transmitter is then not empty. -/
def Obligations.WireTakesOneByteAtATime : Prop :=
  ∀ (i : Instr) (s s' : State), exec i s = .next s' → s'.wire_tx ≠ s.wire_tx →
    s.txe = true ∧ s'.txe = false ∧ ∃ b, s'.wire_tx = s.wire_tx ++ [b] ∧
      (i = .txBeat ∧ b = s.mem.read s.tx_ptr ∨
       ∃ t bytes k, i = .sendLowRate t bytes ∧ s.task[t]? = some (.sendLowRate bytes k) ∧ bytes[k]? = some b)

/-- Rule R27: an operation changes the record of no task but its caller's, and no operation changes a parameter or the
order of the steps still offered. -/
def Obligations.OperationsTouchOnlyTheirCaller : Prop :=
  ∀ (i : Instr) (s s' : State), exec i s = .next s' →
    s'.task.length = s.task.length ∧ (∀ u, i.caller s ≠ some u → s'.task[u]? = s.task[u]?) ∧
    s'.prm = s.prm ∧ s'.sched = s.sched

/-- 20_memory.md rules R24 and R30: no operation writes `Mem` but the frame build, and it writes only inside `txf`. -/
def Obligations.OnlyTheFrameBuildWritesMemory : Prop :=
  ∀ (i : Instr) (s s' : State), s.TasksOk → s.mem.Wf → exec i s = .next s' →
    (∀ a : Addr, a.toNat < s.prm.txfBase.toNat ∨ s.prm.txfBase.toNat + s.prm.mtu.toNat + 6 ≤ a.toNat →
      s'.mem.read a = s.mem.read a) ∧
    ((∀ p, i ≠ .serialize p) → (∀ t p, i ≠ .sendPacket t p) → s'.mem = s.mem)

/-- Where an operation of a safe block stops: with a well-formed operation of existing tasks, `exec` answers a next state
but for the refusals of rule R103.
(The other refusals are of words and of Task operations of tasks that do not exist.) -/
def Obligations.OperationsStopOnlyWhereRefused : Prop :=
  ∀ (i : Instr) (s : State), s.Inv → i.wf = true → (∀ t, i.caller s = some t → t < s.prm.ntask) →
    (∃ s', exec i s = .next s') ∨
    (∃ t, i = .init t ∧ s.ready = true ∧ exec i s = .refused .secondInit) ∨
    (∃ t a, i = .sendDma t a 0 ∧ exec i s = .refused .emptyTransfer) ∨
    (∃ t a n, i = .sendDma t a n ∧ 2 ^ 32 < a.toNat + n.toNat ∧ exec i s = .refused .wrappingTransfer) ∨
    (∃ t m, i = .getAvailable t m ∧ t ≠ s.prm.framingTask ∧ exec i s = .refused (.notFramingTask t))

/-! ### Invariants -/

/-- A step keeps the canonical form of the memory list: addresses rising, no byte listed that an unlisted address reads as.
The form is the model's choice, log entry 7; the spec's `Mem` (20_memory.md section 1) has no form. -/
def Obligations.StepKeepsMemoryCanonical : Prop :=
  ∀ s s' : State, s.mem.Wf → step s = .next s' → s'.mem.Wf

/-- Rule R28 item 9 and its counterpart for `tx_lock`: every lock is held exactly by the task whose phase says so. -/
def Obligations.StepKeepsLockDiscipline : Prop :=
  ∀ s s' : State, s.TasksOk ∧ s.LocksOk → step s = .next s' → s'.TasksOk ∧ s'.LocksOk

/-- Rule R28, all items as the rules keep them: every step from a state with the invariants ends in one. Of item 5's
`rx_tcif implies rx_remaining = 0`, which rule R74's corner case (c) breaks (log entry 13), what holds: every step keeps it
but a service of `IDLE` while `rx_tcif` is pending, and the service of `TC` restores it. -/
def Obligations.StepKeepsInvariants : Prop :=
  ∀ s s' : State, s.Inv → step s = .next s' →
    s'.Inv ∧
    (s.Item5 → (s.nextInstr = some (.rxCompleteIsr .idle) → s.rx_tcif = false) → s'.Item5) ∧
    (s.nextInstr = some (.rxCompleteIsr .tc) → s'.fault = none → s'.Item5)

/-- Rules R91 and R92: a frame that has been built stands unchanged in `txf` until its sender returns. -/
def Obligations.BuiltFrameStaysUntilSent : Prop :=
  ∀ s s' : State, s.Inv → s.FramesBuilt → step s = .next s' → s'.FramesBuilt

/-- Rules R56 and R94, operation by operation. While a task is between phase A and phase E of `SEND_DMA`, or between phases
M and Z of `SEND_PACKET`: no operation lets another task into those phases; an attempt of another task at phase A
(or M) leaves the whole state as it was; and no operation but the holder's own changes the programmed transfer (or
any byte of memory).
That a step which is not enabled leaves the state as it is, is the model's form (log entry 8). -/
def Obligations.TransfersAndFramesAreExclusive : Prop :=
  ∀ (i : Instr) (s s' : State) (t u : Nat) (x : TaskState), s.Inv → s.task[t]? = some x → u ≠ t →
    exec i s = .next s' →
    (x.holdsTxLock = true →
      (∀ y, s'.task[u]? = some y → y.holdsTxLock = false) ∧
      (i.caller s ≠ some t → s'.tx_base = s.tx_base ∧ s'.tx_size = s.tx_size) ∧
      (∀ addr size, s.task[u]? = some (.sendDma addr size .a) → i = .sendDma u addr size → s' = s) ∧
      (∀ p, s.task[u]? = some (.sendPacket p .a) → i = .sendPacket u p → s' = s)) ∧
    (x.holdsSendMutex = true →
      (∀ y, s'.task[u]? = some y → y.holdsSendMutex = false) ∧
      (i.caller s ≠ some t → s'.mem = s.mem) ∧
      (∀ p, s.task[u]? = some (.sendPacket p .m) → i = .sendPacket u p → s' = s))

/-- Rule R28 item 5 as it is written. It is not kept: rule R74's corner case (c) re-arms the stream while `rx_tcif` is
still pending (log entry 13), so this statement fails. -/
def Obligations.StepKeepsItemFiveAsWritten : Prop :=
  ∀ s s' : State, s.Inv → s.Item5 → step s = .next s' → s'.Item5

end
end

