-- ==== Sys2Proof/Laws/Decode.lean ====
section
/-! SUPPORT. The operand readers and their encoders: what each reader makes of an encoded operand, and what a word that a
reader accepts looks like (log entry 3). -/

namespace Sys2Proof

variable {w rest : List Byte} {d : Instr × List Byte}

/-! ### A reader on an encoded operand -/

@[simp] theorem withByte_cons (b : Byte) (w : List Byte) (k : Byte → List Byte → Decoded) : withByte (b :: w) k = k b w :=
  rfl

theorem toNat_ofNat8 (n : Nat) : (BitVec.ofNat 8 n).toNat = n % 256 := by simp

theorem withU32_u32Bytes {n : Nat} (h : n < 2 ^ 32) (w : List Byte) (k : Nat → List Byte → Decoded) :
    withU32 (u32Bytes n ++ w) k = k n w := by
  simp only [u32Bytes, withU32, List.cons_append, List.nil_append, toNat_ofNat8]
  congr 1
  omega

@[simp] theorem withBytes_append (xs w : List Byte) (k : List Byte → List Byte → Decoded) :
    withBytes xs.length (xs ++ w) k = k xs w := by
  simp [withBytes]

theorem withBytes_append_of_length {n : Nat} {xs : List Byte} (h : xs.length = n) (w : List Byte)
    (k : List Byte → List Byte → Decoded) : withBytes n (xs ++ w) k = k xs w := by
  subst h; exact withBytes_append xs w k

theorem withPacket_packetBytes {p : Packet} (h : p.wf = true) (w : List Byte) (k : Packet → List Byte → Decoded) :
    withPacket (packetBytes p ++ w) k = k p w := by
  have h : p.data.length = p.length.toNat := by simpa [Packet.wf] using h
  simp only [withPacket, packetBytes, List.cons_append, withByte_cons, withBytes_append_of_length h]

theorem withFrame_bytes {f : Frame} (h : f.wf = true) (w : List Byte) (k : Frame → List Byte → Decoded) :
    withFrame (f.bytes ++ w) k = k f w := by
  have h : f.data.length = f.length.toNat := by simpa [Frame.wf] using h
  simp only [withFrame, Frame.bytes, List.cons_append, List.append_assoc, withByte_cons, and_self, if_true,
    withBytes_append_of_length h, List.nil_append]

@[simp] theorem opidOf_code (o : Opid) : opidOf o.code = some o := by cases o <;> decide

@[simp] theorem decodeOp_code (o : Opid) (w : List Byte) : decodeOp (o.code :: w) = decodeOperands o w := by
  simp [decodeOp]

/-! ### What an accepted word looks like -/

theorem withByte_ok {k : Byte → List Byte → Decoded} (h : withByte w k = .ok d) :
    ∃ b w', w = b :: w' ∧ k b w' = .ok d := by
  cases w with
  | nil => cases h
  | cons b w' => exact ⟨b, w', rfl, h⟩

theorem withU32_ok {k : Nat → List Byte → Decoded} (h : withU32 w k = .ok d) :
    ∃ n w', n < 2 ^ 32 ∧ w = u32Bytes n ++ w' ∧ k n w' = .ok d := by
  unfold withU32 at h
  split at h
  · rename_i b0 b1 b2 b3 w'
    refine ⟨_, w', ?_, ?_, h⟩
    · have := b0.isLt; have := b1.isLt; have := b2.isLt; have := b3.isLt
      omega
    · have h0 := b0.isLt; have h1 := b1.isLt; have h2 := b2.isLt; have h3 := b3.isLt
      simp only [u32Bytes, List.cons_append, List.nil_append, List.cons.injEq, and_true]
      refine ⟨?_, ?_, ?_, ?_⟩ <;>
      · apply BitVec.eq_of_toNat_eq
        rw [toNat_ofNat8]
        omega
  · cases h

theorem withBytes_ok {n : Nat} {k : List Byte → List Byte → Decoded} (h : withBytes n w k = .ok d) :
    ∃ xs w', xs.length = n ∧ w = xs ++ w' ∧ k xs w' = .ok d := by
  unfold withBytes at h
  split at h
  · cases h
  · exact ⟨w.take n, w.drop n, by simp; omega, by simp, h⟩

theorem withPacket_ok {k : Packet → List Byte → Decoded} (h : withPacket w k = .ok d) :
    ∃ p w', p.wf = true ∧ w = packetBytes p ++ w' ∧ k p w' = .ok d := by
  unfold withPacket at h
  obtain ⟨type, w1, rfl, h1⟩ := withByte_ok h
  obtain ⟨length, w2, rfl, h2⟩ := withByte_ok h1
  obtain ⟨data, w3, hn, rfl, h3⟩ := withBytes_ok h2
  exact ⟨_, w3, by simp [Packet.wf, hn], rfl, h3⟩

theorem withFrame_ok {k : Frame → List Byte → Decoded} (h : withFrame w k = .ok d) :
    ∃ f w', f.wf = true ∧ w = f.bytes ++ w' ∧ k f w' = .ok d := by
  unfold withFrame at h
  obtain ⟨s1, w1, rfl, h1⟩ := withByte_ok h
  obtain ⟨s2, w2, rfl, h2⟩ := withByte_ok h1
  split at h2
  · rename_i hs
    obtain ⟨rfl, rfl⟩ := hs
    obtain ⟨type, w3, rfl, h3⟩ := withByte_ok h2
    obtain ⟨length, w4, rfl, h4⟩ := withByte_ok h3
    obtain ⟨data, w5, hn, rfl, h5⟩ := withBytes_ok h4
    obtain ⟨c0, w6, rfl, h6⟩ := withByte_ok h5
    obtain ⟨c1, w7, rfl, h7⟩ := withByte_ok h6
    exact ⟨_, w7, by simp [Frame.wf, hn], by simp [Frame.bytes], h7⟩
  · cases h2

theorem withCause_ok {k : RxCause → List Byte → Decoded} (h : withCause w k = .ok d) :
    ∃ c w', w = causeByte c :: w' ∧ k c w' = .ok d := by
  unfold withCause at h
  obtain ⟨v, w', rfl, h1⟩ := withByte_ok h
  repeat' split at h1
  all_goals first
    | cases h1
    | (subst v; first | exact ⟨.tc, w', rfl, h1⟩ | exact ⟨.idle, w', rfl, h1⟩)

theorem withDraw_ok {k : RxDraw → List Byte → Decoded} (h : withDraw w k = .ok d) :
    ∃ r w', w = drawByte r :: w' ∧ k r w' = .ok d := by
  unfold withDraw at h
  obtain ⟨v, w', rfl, h1⟩ := withByte_ok h
  repeat' split at h1
  all_goals first
    | cases h1
    | (subst v; first | exact ⟨.dma, w', rfl, h1⟩ | exact ⟨.irq, w', rfl, h1⟩ | exact ⟨.both, w', rfl, h1⟩)

theorem withLineError_ok {k : LineError → List Byte → Decoded} (h : withLineError w k = .ok d) :
    ∃ e w', w = lineErrorByte e :: w' ∧ k e w' = .ok d := by
  unfold withLineError at h
  obtain ⟨v, w', rfl, h1⟩ := withByte_ok h
  repeat' split at h1
  all_goals first
    | cases h1
    | (subst v; first | exact ⟨.pe, w', rfl, h1⟩ | exact ⟨.fe, w', rfl, h1⟩ | exact ⟨.ne, w', rfl, h1⟩)

theorem withDataDraw_ok {k : Option Byte → List Byte → Decoded} (h : withDataDraw w k = .ok d) :
    ∃ b w', w = dataDrawBytes b ++ w' ∧ k b w' = .ok d := by
  unfold withDataDraw at h
  obtain ⟨v, w', rfl, h1⟩ := withByte_ok h
  split at h1
  · subst v; exact ⟨none, w', rfl, h1⟩
  · split at h1
    · subst v
      obtain ⟨b, w'', rfl, h2⟩ := withByte_ok h1
      exact ⟨some b, w'', rfl, h2⟩
    · cases h1

theorem withLevel_ok {k : Bool → List Byte → Decoded} (h : withLevel w k = .ok d) :
    ∃ b w', w = levelByte b :: w' ∧ k b w' = .ok d := by
  unfold withLevel at h
  obtain ⟨v, w', rfl, h1⟩ := withByte_ok h
  repeat' split at h1
  all_goals first
    | cases h1
    | (subst v; first | exact ⟨false, w', rfl, h1⟩ | exact ⟨true, w', rfl, h1⟩)

theorem opidOf_some {b : Byte} {o : Opid} (h : opidOf b = some o) : o.code = b := by
  have := List.find?_some h
  simpa using this

/-- What a selector and an input byte name is the row they encode. -/
theorem feedRow_ok {selector b : Byte} {i : Instr} (hi : feedRow selector b = .ok i) :
    i.wf = true ∧ i.format = .feed ∧ encode i = [b, selector] := by
  have key : ∀ {p : Prop} [Decidable p] {x y : Except DecodeError Instr}, (if p then x else y) = .ok i →
      (p ∧ x = .ok i) ∨ (¬ p ∧ y = .ok i) := by
    intro p _ x y h
    split at h
    · exact .inl ⟨‹_›, h⟩
    · exact .inr ⟨‹_›, h⟩
  have ok : ∀ {x : Instr}, (Except.ok x : Except DecodeError Instr) = .ok i → x = i := fun h => Except.ok.inj h
  unfold feedRow at hi
  obtain ⟨hs, hi⟩ | ⟨-, hi⟩ := key hi
  · obtain ⟨hp, hi⟩ | ⟨-, hi⟩ := key hi
    · obtain rfl := ok hi; subst hs hp; exact ⟨rfl, rfl, rfl⟩
    obtain ⟨hp, hi⟩ | ⟨-, hi⟩ := key hi
    · obtain rfl := ok hi; subst hs hp; exact ⟨rfl, rfl, rfl⟩
    obtain ⟨hp, hi⟩ | ⟨-, hi⟩ := key hi
    · obtain rfl := ok hi; subst hs hp; exact ⟨rfl, rfl, rfl⟩
    cases hi
  obtain ⟨hp, hi⟩ | ⟨-, hi⟩ := key hi
  · obtain rfl := ok hi; obtain ⟨rfl, hb⟩ := hp; exact ⟨by simpa [Instr.wf] using hb, rfl, rfl⟩
  obtain ⟨hp, hi⟩ | ⟨-, hi⟩ := key hi
  · obtain rfl := ok hi; obtain ⟨rfl, hb⟩ := hp; exact ⟨by simpa [Instr.wf] using hb, rfl, rfl⟩
  obtain ⟨hp, hi⟩ | ⟨-, hi⟩ := key hi
  · obtain rfl := ok hi; subst hp; exact ⟨rfl, rfl, rfl⟩
  obtain ⟨hp, hi⟩ | ⟨-, hi⟩ := key hi
  · obtain rfl := ok hi; subst hp; exact ⟨rfl, rfl, rfl⟩
  obtain ⟨hp, hi⟩ | ⟨-, hi⟩ := key hi
  · obtain rfl := ok hi; obtain ⟨rfl, hb⟩ := hp; exact ⟨by simpa [Instr.wf] using hb, rfl, rfl⟩
  obtain ⟨hp, hi⟩ | ⟨-, hi⟩ := key hi
  · obtain rfl := ok hi; subst hp; exact ⟨rfl, rfl, rfl⟩
  obtain ⟨hp, hi⟩ | ⟨-, hi⟩ := key hi
  · obtain rfl := ok hi; subst hp; exact ⟨rfl, rfl, rfl⟩
  obtain ⟨hp, hi⟩ | ⟨-, hi⟩ := key hi
  · obtain rfl := ok hi; subst hp; exact ⟨rfl, rfl, rfl⟩
  obtain ⟨hp, hi⟩ | ⟨-, hi⟩ := key hi
  · obtain rfl := ok hi; subst hp; exact ⟨rfl, rfl, rfl⟩
  obtain ⟨hp, hi⟩ | ⟨-, hi⟩ := key hi
  · obtain rfl := ok hi; subst hp; exact ⟨rfl, rfl, rfl⟩
  obtain ⟨hp, hi⟩ | ⟨-, hi⟩ := key hi
  · obtain rfl := ok hi; subst hp; exact ⟨rfl, rfl, rfl⟩
  cases hi

/-- A frame whose checksum bytes match is the frame of its packet (30_encoding.md rule R40). -/
theorem frame_of_checksumOk {f : Frame} (h : f.checksumOk = true) : f.packet.frame = f := by
  have h : checksum f.type f.length f.data = (f.cksum0, f.cksum1) := by simpa [Frame.checksumOk] using h
  simp [Frame.packet, Packet.frame, h]

theorem frame_checksumOk (p : Packet) : p.frame.checksumOk = true := by simp [Packet.frame, Frame.checksumOk]

@[simp] theorem packet_frame_packet (p : Packet) : p.frame.packet = p := rfl

end Sys2Proof
end

