-- ==== Sys2Proof/Laws/State.lean ====
section
/-! SUPPORT. What each named update of the state does to each field, so that no proof unfolds a record update. -/

namespace Sys2Proof.Machine

section

variable (s : State) (t : Nat) (ts : TaskState)

@[simp] theorem State.setTask_ready : (s.setTask t ts).ready = s.ready := rfl
@[simp] theorem State.setTask_cfg : (s.setTask t ts).cfg = s.cfg := rfl
@[simp] theorem State.setTask_rdr : (s.setTask t ts).rdr = s.rdr := rfl
@[simp] theorem State.setTask_rxne : (s.setTask t ts).rxne = s.rxne := rfl
@[simp] theorem State.setTask_idle : (s.setTask t ts).idle = s.idle := rfl
@[simp] theorem State.setTask_pe : (s.setTask t ts).pe = s.pe := rfl
@[simp] theorem State.setTask_fe : (s.setTask t ts).fe = s.fe := rfl
@[simp] theorem State.setTask_ne : (s.setTask t ts).ne = s.ne := rfl
@[simp] theorem State.setTask_ore : (s.setTask t ts).ore = s.ore := rfl
@[simp] theorem State.setTask_txe : (s.setTask t ts).txe = s.txe := rfl
@[simp] theorem State.setTask_armed : (s.setTask t ts).armed = s.armed := rfl
@[simp] theorem State.setTask_fc_pend : (s.setTask t ts).fc_pend = s.fc_pend := rfl
@[simp] theorem State.setTask_rx_en : (s.setTask t ts).rx_en = s.rx_en := rfl
@[simp] theorem State.setTask_rx_remaining : (s.setTask t ts).rx_remaining = s.rx_remaining := rfl
@[simp] theorem State.setTask_rx_tcif : (s.setTask t ts).rx_tcif = s.rx_tcif := rfl
@[simp] theorem State.setTask_rx_buf : (s.setTask t ts).rx_buf = s.rx_buf := rfl
@[simp] theorem State.setTask_rx_done : (s.setTask t ts).rx_done = s.rx_done := rfl
@[simp] theorem State.setTask_stage : (s.setTask t ts).stage = s.stage := rfl
@[simp] theorem State.setTask_byteq : (s.setTask t ts).byteq = s.byteq := rfl
@[simp] theorem State.setTask_tx_en : (s.setTask t ts).tx_en = s.tx_en := rfl
@[simp] theorem State.setTask_tx_ptr : (s.setTask t ts).tx_ptr = s.tx_ptr := rfl
@[simp] theorem State.setTask_tx_count : (s.setTask t ts).tx_count = s.tx_count := rfl
@[simp] theorem State.setTask_tx_tcie : (s.setTask t ts).tx_tcie = s.tx_tcie := rfl
@[simp] theorem State.setTask_tx_tcif : (s.setTask t ts).tx_tcif = s.tx_tcif := rfl
@[simp] theorem State.setTask_tx_base : (s.setTask t ts).tx_base = s.tx_base := rfl
@[simp] theorem State.setTask_tx_size : (s.setTask t ts).tx_size = s.tx_size := rfl
@[simp] theorem State.setTask_is_paused : (s.setTask t ts).is_paused = s.is_paused := rfl
@[simp] theorem State.setTask_initial_count : (s.setTask t ts).initial_count = s.initial_count := rfl
@[simp] theorem State.setTask_remaining_count : (s.setTask t ts).remaining_count = s.remaining_count := rfl
@[simp] theorem State.setTask_fc_level : (s.setTask t ts).fc_level = s.fc_level := rfl
@[simp] theorem State.setTask_tx_lock : (s.setTask t ts).tx_lock = s.tx_lock := rfl
@[simp] theorem State.setTask_tx_done : (s.setTask t ts).tx_done = s.tx_done := rfl
@[simp] theorem State.setTask_send_mutex : (s.setTask t ts).send_mutex = s.send_mutex := rfl
@[simp] theorem State.setTask_fs : (s.setTask t ts).fs = s.fs := rfl
@[simp] theorem State.setTask_f_type : (s.setTask t ts).f_type = s.f_type := rfl
@[simp] theorem State.setTask_f_length : (s.setTask t ts).f_length = s.f_length := rfl
@[simp] theorem State.setTask_f_data : (s.setTask t ts).f_data = s.f_data := rfl
@[simp] theorem State.setTask_f_idx : (s.setTask t ts).f_idx = s.f_idx := rfl
@[simp] theorem State.setTask_f_ck0 : (s.setTask t ts).f_ck0 = s.f_ck0 := rfl
@[simp] theorem State.setTask_f_ck1 : (s.setTask t ts).f_ck1 = s.f_ck1 := rfl
@[simp] theorem State.setTask_mem : (s.setTask t ts).mem = s.mem := rfl
@[simp] theorem State.setTask_wire_tx : (s.setTask t ts).wire_tx = s.wire_tx := rfl
@[simp] theorem State.setTask_dispatch_log : (s.setTask t ts).dispatch_log = s.dispatch_log := rfl
@[simp] theorem State.setTask_diag_log : (s.setTask t ts).diag_log = s.diag_log := rfl
@[simp] theorem State.setTask_fault : (s.setTask t ts).fault = s.fault := rfl
@[simp] theorem State.setTask_task : (s.setTask t ts).task = s.task.set t ts := rfl
@[simp] theorem State.setTask_prm : (s.setTask t ts).prm = s.prm := rfl
@[simp] theorem State.setTask_sched : (s.setTask t ts).sched = s.sched := rfl
@[simp] theorem State.setTask_ret : (s.setTask t ts).ret = s.ret := rfl

end

section

variable (s : State) (t : Nat) (r : Result)

@[simp] theorem State.report_ready : (s.report t r).ready = s.ready := rfl
@[simp] theorem State.report_cfg : (s.report t r).cfg = s.cfg := rfl
@[simp] theorem State.report_rdr : (s.report t r).rdr = s.rdr := rfl
@[simp] theorem State.report_rxne : (s.report t r).rxne = s.rxne := rfl
@[simp] theorem State.report_idle : (s.report t r).idle = s.idle := rfl
@[simp] theorem State.report_pe : (s.report t r).pe = s.pe := rfl
@[simp] theorem State.report_fe : (s.report t r).fe = s.fe := rfl
@[simp] theorem State.report_ne : (s.report t r).ne = s.ne := rfl
@[simp] theorem State.report_ore : (s.report t r).ore = s.ore := rfl
@[simp] theorem State.report_txe : (s.report t r).txe = s.txe := rfl
@[simp] theorem State.report_armed : (s.report t r).armed = s.armed := rfl
@[simp] theorem State.report_fc_pend : (s.report t r).fc_pend = s.fc_pend := rfl
@[simp] theorem State.report_rx_en : (s.report t r).rx_en = s.rx_en := rfl
@[simp] theorem State.report_rx_remaining : (s.report t r).rx_remaining = s.rx_remaining := rfl
@[simp] theorem State.report_rx_tcif : (s.report t r).rx_tcif = s.rx_tcif := rfl
@[simp] theorem State.report_rx_buf : (s.report t r).rx_buf = s.rx_buf := rfl
@[simp] theorem State.report_rx_done : (s.report t r).rx_done = s.rx_done := rfl
@[simp] theorem State.report_stage : (s.report t r).stage = s.stage := rfl
@[simp] theorem State.report_byteq : (s.report t r).byteq = s.byteq := rfl
@[simp] theorem State.report_tx_en : (s.report t r).tx_en = s.tx_en := rfl
@[simp] theorem State.report_tx_ptr : (s.report t r).tx_ptr = s.tx_ptr := rfl
@[simp] theorem State.report_tx_count : (s.report t r).tx_count = s.tx_count := rfl
@[simp] theorem State.report_tx_tcie : (s.report t r).tx_tcie = s.tx_tcie := rfl
@[simp] theorem State.report_tx_tcif : (s.report t r).tx_tcif = s.tx_tcif := rfl
@[simp] theorem State.report_tx_base : (s.report t r).tx_base = s.tx_base := rfl
@[simp] theorem State.report_tx_size : (s.report t r).tx_size = s.tx_size := rfl
@[simp] theorem State.report_is_paused : (s.report t r).is_paused = s.is_paused := rfl
@[simp] theorem State.report_initial_count : (s.report t r).initial_count = s.initial_count := rfl
@[simp] theorem State.report_remaining_count : (s.report t r).remaining_count = s.remaining_count := rfl
@[simp] theorem State.report_fc_level : (s.report t r).fc_level = s.fc_level := rfl
@[simp] theorem State.report_tx_lock : (s.report t r).tx_lock = s.tx_lock := rfl
@[simp] theorem State.report_tx_done : (s.report t r).tx_done = s.tx_done := rfl
@[simp] theorem State.report_send_mutex : (s.report t r).send_mutex = s.send_mutex := rfl
@[simp] theorem State.report_fs : (s.report t r).fs = s.fs := rfl
@[simp] theorem State.report_f_type : (s.report t r).f_type = s.f_type := rfl
@[simp] theorem State.report_f_length : (s.report t r).f_length = s.f_length := rfl
@[simp] theorem State.report_f_data : (s.report t r).f_data = s.f_data := rfl
@[simp] theorem State.report_f_idx : (s.report t r).f_idx = s.f_idx := rfl
@[simp] theorem State.report_f_ck0 : (s.report t r).f_ck0 = s.f_ck0 := rfl
@[simp] theorem State.report_f_ck1 : (s.report t r).f_ck1 = s.f_ck1 := rfl
@[simp] theorem State.report_mem : (s.report t r).mem = s.mem := rfl
@[simp] theorem State.report_wire_tx : (s.report t r).wire_tx = s.wire_tx := rfl
@[simp] theorem State.report_dispatch_log : (s.report t r).dispatch_log = s.dispatch_log := rfl
@[simp] theorem State.report_diag_log : (s.report t r).diag_log = s.diag_log := rfl
@[simp] theorem State.report_fault : (s.report t r).fault = s.fault := rfl
@[simp] theorem State.report_task : (s.report t r).task = s.task := rfl
@[simp] theorem State.report_prm : (s.report t r).prm = s.prm := rfl
@[simp] theorem State.report_sched : (s.report t r).sched = s.sched := rfl
@[simp] theorem State.report_ret : (s.report t r).ret = s.ret ++ [(t, r)] := rfl

end

section

variable (s : State) (c : FaultCode)

@[simp] theorem State.raiseFault_ready : (s.raiseFault c).ready = s.ready := rfl
@[simp] theorem State.raiseFault_cfg : (s.raiseFault c).cfg = s.cfg := rfl
@[simp] theorem State.raiseFault_rdr : (s.raiseFault c).rdr = s.rdr := rfl
@[simp] theorem State.raiseFault_rxne : (s.raiseFault c).rxne = s.rxne := rfl
@[simp] theorem State.raiseFault_idle : (s.raiseFault c).idle = s.idle := rfl
@[simp] theorem State.raiseFault_pe : (s.raiseFault c).pe = s.pe := rfl
@[simp] theorem State.raiseFault_fe : (s.raiseFault c).fe = s.fe := rfl
@[simp] theorem State.raiseFault_ne : (s.raiseFault c).ne = s.ne := rfl
@[simp] theorem State.raiseFault_ore : (s.raiseFault c).ore = s.ore := rfl
@[simp] theorem State.raiseFault_txe : (s.raiseFault c).txe = s.txe := rfl
@[simp] theorem State.raiseFault_armed : (s.raiseFault c).armed = s.armed := rfl
@[simp] theorem State.raiseFault_fc_pend : (s.raiseFault c).fc_pend = s.fc_pend := rfl
@[simp] theorem State.raiseFault_rx_en : (s.raiseFault c).rx_en = s.rx_en := rfl
@[simp] theorem State.raiseFault_rx_remaining : (s.raiseFault c).rx_remaining = s.rx_remaining := rfl
@[simp] theorem State.raiseFault_rx_tcif : (s.raiseFault c).rx_tcif = s.rx_tcif := rfl
@[simp] theorem State.raiseFault_rx_buf : (s.raiseFault c).rx_buf = s.rx_buf := rfl
@[simp] theorem State.raiseFault_rx_done : (s.raiseFault c).rx_done = s.rx_done := rfl
@[simp] theorem State.raiseFault_stage : (s.raiseFault c).stage = s.stage := rfl
@[simp] theorem State.raiseFault_byteq : (s.raiseFault c).byteq = s.byteq := rfl
@[simp] theorem State.raiseFault_tx_en : (s.raiseFault c).tx_en = s.tx_en := rfl
@[simp] theorem State.raiseFault_tx_ptr : (s.raiseFault c).tx_ptr = s.tx_ptr := rfl
@[simp] theorem State.raiseFault_tx_count : (s.raiseFault c).tx_count = s.tx_count := rfl
@[simp] theorem State.raiseFault_tx_tcie : (s.raiseFault c).tx_tcie = s.tx_tcie := rfl
@[simp] theorem State.raiseFault_tx_tcif : (s.raiseFault c).tx_tcif = s.tx_tcif := rfl
@[simp] theorem State.raiseFault_tx_base : (s.raiseFault c).tx_base = s.tx_base := rfl
@[simp] theorem State.raiseFault_tx_size : (s.raiseFault c).tx_size = s.tx_size := rfl
@[simp] theorem State.raiseFault_is_paused : (s.raiseFault c).is_paused = s.is_paused := rfl
@[simp] theorem State.raiseFault_initial_count : (s.raiseFault c).initial_count = s.initial_count := rfl
@[simp] theorem State.raiseFault_remaining_count : (s.raiseFault c).remaining_count = s.remaining_count := rfl
@[simp] theorem State.raiseFault_fc_level : (s.raiseFault c).fc_level = s.fc_level := rfl
@[simp] theorem State.raiseFault_tx_lock : (s.raiseFault c).tx_lock = s.tx_lock := rfl
@[simp] theorem State.raiseFault_tx_done : (s.raiseFault c).tx_done = s.tx_done := rfl
@[simp] theorem State.raiseFault_send_mutex : (s.raiseFault c).send_mutex = s.send_mutex := rfl
@[simp] theorem State.raiseFault_fs : (s.raiseFault c).fs = s.fs := rfl
@[simp] theorem State.raiseFault_f_type : (s.raiseFault c).f_type = s.f_type := rfl
@[simp] theorem State.raiseFault_f_length : (s.raiseFault c).f_length = s.f_length := rfl
@[simp] theorem State.raiseFault_f_data : (s.raiseFault c).f_data = s.f_data := rfl
@[simp] theorem State.raiseFault_f_idx : (s.raiseFault c).f_idx = s.f_idx := rfl
@[simp] theorem State.raiseFault_f_ck0 : (s.raiseFault c).f_ck0 = s.f_ck0 := rfl
@[simp] theorem State.raiseFault_f_ck1 : (s.raiseFault c).f_ck1 = s.f_ck1 := rfl
@[simp] theorem State.raiseFault_mem : (s.raiseFault c).mem = s.mem := rfl
@[simp] theorem State.raiseFault_wire_tx : (s.raiseFault c).wire_tx = s.wire_tx := rfl
@[simp] theorem State.raiseFault_dispatch_log : (s.raiseFault c).dispatch_log = s.dispatch_log := rfl
@[simp] theorem State.raiseFault_diag_log : (s.raiseFault c).diag_log = s.diag_log := rfl
@[simp] theorem State.raiseFault_fault : (s.raiseFault c).fault = some c := rfl
@[simp] theorem State.raiseFault_task : (s.raiseFault c).task = s.task := rfl
@[simp] theorem State.raiseFault_prm : (s.raiseFault c).prm = s.prm := rfl
@[simp] theorem State.raiseFault_sched : (s.raiseFault c).sched = s.sched := rfl
@[simp] theorem State.raiseFault_ret : (s.raiseFault c).ret = s.ret := rfl

end

section

variable (s : State) (b : Byte)

@[simp] theorem State.emitTx_ready : (s.emitTx b).ready = s.ready := rfl
@[simp] theorem State.emitTx_cfg : (s.emitTx b).cfg = s.cfg := rfl
@[simp] theorem State.emitTx_rdr : (s.emitTx b).rdr = s.rdr := rfl
@[simp] theorem State.emitTx_rxne : (s.emitTx b).rxne = s.rxne := rfl
@[simp] theorem State.emitTx_idle : (s.emitTx b).idle = s.idle := rfl
@[simp] theorem State.emitTx_pe : (s.emitTx b).pe = s.pe := rfl
@[simp] theorem State.emitTx_fe : (s.emitTx b).fe = s.fe := rfl
@[simp] theorem State.emitTx_ne : (s.emitTx b).ne = s.ne := rfl
@[simp] theorem State.emitTx_ore : (s.emitTx b).ore = s.ore := rfl
@[simp] theorem State.emitTx_txe : (s.emitTx b).txe = false := rfl
@[simp] theorem State.emitTx_armed : (s.emitTx b).armed = s.armed := rfl
@[simp] theorem State.emitTx_fc_pend : (s.emitTx b).fc_pend = s.fc_pend := rfl
@[simp] theorem State.emitTx_rx_en : (s.emitTx b).rx_en = s.rx_en := rfl
@[simp] theorem State.emitTx_rx_remaining : (s.emitTx b).rx_remaining = s.rx_remaining := rfl
@[simp] theorem State.emitTx_rx_tcif : (s.emitTx b).rx_tcif = s.rx_tcif := rfl
@[simp] theorem State.emitTx_rx_buf : (s.emitTx b).rx_buf = s.rx_buf := rfl
@[simp] theorem State.emitTx_rx_done : (s.emitTx b).rx_done = s.rx_done := rfl
@[simp] theorem State.emitTx_stage : (s.emitTx b).stage = s.stage := rfl
@[simp] theorem State.emitTx_byteq : (s.emitTx b).byteq = s.byteq := rfl
@[simp] theorem State.emitTx_tx_en : (s.emitTx b).tx_en = s.tx_en := rfl
@[simp] theorem State.emitTx_tx_ptr : (s.emitTx b).tx_ptr = s.tx_ptr := rfl
@[simp] theorem State.emitTx_tx_count : (s.emitTx b).tx_count = s.tx_count := rfl
@[simp] theorem State.emitTx_tx_tcie : (s.emitTx b).tx_tcie = s.tx_tcie := rfl
@[simp] theorem State.emitTx_tx_tcif : (s.emitTx b).tx_tcif = s.tx_tcif := rfl
@[simp] theorem State.emitTx_tx_base : (s.emitTx b).tx_base = s.tx_base := rfl
@[simp] theorem State.emitTx_tx_size : (s.emitTx b).tx_size = s.tx_size := rfl
@[simp] theorem State.emitTx_is_paused : (s.emitTx b).is_paused = s.is_paused := rfl
@[simp] theorem State.emitTx_initial_count : (s.emitTx b).initial_count = s.initial_count := rfl
@[simp] theorem State.emitTx_remaining_count : (s.emitTx b).remaining_count = s.remaining_count := rfl
@[simp] theorem State.emitTx_fc_level : (s.emitTx b).fc_level = s.fc_level := rfl
@[simp] theorem State.emitTx_tx_lock : (s.emitTx b).tx_lock = s.tx_lock := rfl
@[simp] theorem State.emitTx_tx_done : (s.emitTx b).tx_done = s.tx_done := rfl
@[simp] theorem State.emitTx_send_mutex : (s.emitTx b).send_mutex = s.send_mutex := rfl
@[simp] theorem State.emitTx_fs : (s.emitTx b).fs = s.fs := rfl
@[simp] theorem State.emitTx_f_type : (s.emitTx b).f_type = s.f_type := rfl
@[simp] theorem State.emitTx_f_length : (s.emitTx b).f_length = s.f_length := rfl
@[simp] theorem State.emitTx_f_data : (s.emitTx b).f_data = s.f_data := rfl
@[simp] theorem State.emitTx_f_idx : (s.emitTx b).f_idx = s.f_idx := rfl
@[simp] theorem State.emitTx_f_ck0 : (s.emitTx b).f_ck0 = s.f_ck0 := rfl
@[simp] theorem State.emitTx_f_ck1 : (s.emitTx b).f_ck1 = s.f_ck1 := rfl
@[simp] theorem State.emitTx_mem : (s.emitTx b).mem = s.mem := rfl
@[simp] theorem State.emitTx_wire_tx : (s.emitTx b).wire_tx = s.wire_tx ++ [b] := rfl
@[simp] theorem State.emitTx_dispatch_log : (s.emitTx b).dispatch_log = s.dispatch_log := rfl
@[simp] theorem State.emitTx_diag_log : (s.emitTx b).diag_log = s.diag_log := rfl
@[simp] theorem State.emitTx_fault : (s.emitTx b).fault = s.fault := rfl
@[simp] theorem State.emitTx_task : (s.emitTx b).task = s.task := rfl
@[simp] theorem State.emitTx_prm : (s.emitTx b).prm = s.prm := rfl
@[simp] theorem State.emitTx_sched : (s.emitTx b).sched = s.sched := rfl
@[simp] theorem State.emitTx_ret : (s.emitTx b).ret = s.ret := rfl

end

section

variable (s : State) (x : FramerState)

@[simp] theorem State.goto_ready : (s.goto x).ready = s.ready := rfl
@[simp] theorem State.goto_cfg : (s.goto x).cfg = s.cfg := rfl
@[simp] theorem State.goto_rdr : (s.goto x).rdr = s.rdr := rfl
@[simp] theorem State.goto_rxne : (s.goto x).rxne = s.rxne := rfl
@[simp] theorem State.goto_idle : (s.goto x).idle = s.idle := rfl
@[simp] theorem State.goto_pe : (s.goto x).pe = s.pe := rfl
@[simp] theorem State.goto_fe : (s.goto x).fe = s.fe := rfl
@[simp] theorem State.goto_ne : (s.goto x).ne = s.ne := rfl
@[simp] theorem State.goto_ore : (s.goto x).ore = s.ore := rfl
@[simp] theorem State.goto_txe : (s.goto x).txe = s.txe := rfl
@[simp] theorem State.goto_armed : (s.goto x).armed = s.armed := rfl
@[simp] theorem State.goto_fc_pend : (s.goto x).fc_pend = s.fc_pend := rfl
@[simp] theorem State.goto_rx_en : (s.goto x).rx_en = s.rx_en := rfl
@[simp] theorem State.goto_rx_remaining : (s.goto x).rx_remaining = s.rx_remaining := rfl
@[simp] theorem State.goto_rx_tcif : (s.goto x).rx_tcif = s.rx_tcif := rfl
@[simp] theorem State.goto_rx_buf : (s.goto x).rx_buf = s.rx_buf := rfl
@[simp] theorem State.goto_rx_done : (s.goto x).rx_done = s.rx_done := rfl
@[simp] theorem State.goto_stage : (s.goto x).stage = s.stage := rfl
@[simp] theorem State.goto_byteq : (s.goto x).byteq = s.byteq := rfl
@[simp] theorem State.goto_tx_en : (s.goto x).tx_en = s.tx_en := rfl
@[simp] theorem State.goto_tx_ptr : (s.goto x).tx_ptr = s.tx_ptr := rfl
@[simp] theorem State.goto_tx_count : (s.goto x).tx_count = s.tx_count := rfl
@[simp] theorem State.goto_tx_tcie : (s.goto x).tx_tcie = s.tx_tcie := rfl
@[simp] theorem State.goto_tx_tcif : (s.goto x).tx_tcif = s.tx_tcif := rfl
@[simp] theorem State.goto_tx_base : (s.goto x).tx_base = s.tx_base := rfl
@[simp] theorem State.goto_tx_size : (s.goto x).tx_size = s.tx_size := rfl
@[simp] theorem State.goto_is_paused : (s.goto x).is_paused = s.is_paused := rfl
@[simp] theorem State.goto_initial_count : (s.goto x).initial_count = s.initial_count := rfl
@[simp] theorem State.goto_remaining_count : (s.goto x).remaining_count = s.remaining_count := rfl
@[simp] theorem State.goto_fc_level : (s.goto x).fc_level = s.fc_level := rfl
@[simp] theorem State.goto_tx_lock : (s.goto x).tx_lock = s.tx_lock := rfl
@[simp] theorem State.goto_tx_done : (s.goto x).tx_done = s.tx_done := rfl
@[simp] theorem State.goto_send_mutex : (s.goto x).send_mutex = s.send_mutex := rfl
@[simp] theorem State.goto_fs : (s.goto x).fs = x := rfl
@[simp] theorem State.goto_f_type : (s.goto x).f_type = s.f_type := rfl
@[simp] theorem State.goto_f_length : (s.goto x).f_length = s.f_length := rfl
@[simp] theorem State.goto_f_data : (s.goto x).f_data = s.f_data := rfl
@[simp] theorem State.goto_f_idx : (s.goto x).f_idx = s.f_idx := rfl
@[simp] theorem State.goto_f_ck0 : (s.goto x).f_ck0 = s.f_ck0 := rfl
@[simp] theorem State.goto_f_ck1 : (s.goto x).f_ck1 = s.f_ck1 := rfl
@[simp] theorem State.goto_mem : (s.goto x).mem = s.mem := rfl
@[simp] theorem State.goto_wire_tx : (s.goto x).wire_tx = s.wire_tx := rfl
@[simp] theorem State.goto_dispatch_log : (s.goto x).dispatch_log = s.dispatch_log := rfl
@[simp] theorem State.goto_diag_log : (s.goto x).diag_log = s.diag_log := rfl
@[simp] theorem State.goto_fault : (s.goto x).fault = s.fault := rfl
@[simp] theorem State.goto_task : (s.goto x).task = s.task := rfl
@[simp] theorem State.goto_prm : (s.goto x).prm = s.prm := rfl
@[simp] theorem State.goto_sched : (s.goto x).sched = s.sched := rfl
@[simp] theorem State.goto_ret : (s.goto x).ret = s.ret := rfl

end

section

variable (s : State) (b : Byte)

@[simp] theorem State.fold_ready : (s.fold b).ready = s.ready := rfl
@[simp] theorem State.fold_cfg : (s.fold b).cfg = s.cfg := rfl
@[simp] theorem State.fold_rdr : (s.fold b).rdr = s.rdr := rfl
@[simp] theorem State.fold_rxne : (s.fold b).rxne = s.rxne := rfl
@[simp] theorem State.fold_idle : (s.fold b).idle = s.idle := rfl
@[simp] theorem State.fold_pe : (s.fold b).pe = s.pe := rfl
@[simp] theorem State.fold_fe : (s.fold b).fe = s.fe := rfl
@[simp] theorem State.fold_ne : (s.fold b).ne = s.ne := rfl
@[simp] theorem State.fold_ore : (s.fold b).ore = s.ore := rfl
@[simp] theorem State.fold_txe : (s.fold b).txe = s.txe := rfl
@[simp] theorem State.fold_armed : (s.fold b).armed = s.armed := rfl
@[simp] theorem State.fold_fc_pend : (s.fold b).fc_pend = s.fc_pend := rfl
@[simp] theorem State.fold_rx_en : (s.fold b).rx_en = s.rx_en := rfl
@[simp] theorem State.fold_rx_remaining : (s.fold b).rx_remaining = s.rx_remaining := rfl
@[simp] theorem State.fold_rx_tcif : (s.fold b).rx_tcif = s.rx_tcif := rfl
@[simp] theorem State.fold_rx_buf : (s.fold b).rx_buf = s.rx_buf := rfl
@[simp] theorem State.fold_rx_done : (s.fold b).rx_done = s.rx_done := rfl
@[simp] theorem State.fold_stage : (s.fold b).stage = s.stage := rfl
@[simp] theorem State.fold_byteq : (s.fold b).byteq = s.byteq := rfl
@[simp] theorem State.fold_tx_en : (s.fold b).tx_en = s.tx_en := rfl
@[simp] theorem State.fold_tx_ptr : (s.fold b).tx_ptr = s.tx_ptr := rfl
@[simp] theorem State.fold_tx_count : (s.fold b).tx_count = s.tx_count := rfl
@[simp] theorem State.fold_tx_tcie : (s.fold b).tx_tcie = s.tx_tcie := rfl
@[simp] theorem State.fold_tx_tcif : (s.fold b).tx_tcif = s.tx_tcif := rfl
@[simp] theorem State.fold_tx_base : (s.fold b).tx_base = s.tx_base := rfl
@[simp] theorem State.fold_tx_size : (s.fold b).tx_size = s.tx_size := rfl
@[simp] theorem State.fold_is_paused : (s.fold b).is_paused = s.is_paused := rfl
@[simp] theorem State.fold_initial_count : (s.fold b).initial_count = s.initial_count := rfl
@[simp] theorem State.fold_remaining_count : (s.fold b).remaining_count = s.remaining_count := rfl
@[simp] theorem State.fold_fc_level : (s.fold b).fc_level = s.fc_level := rfl
@[simp] theorem State.fold_tx_lock : (s.fold b).tx_lock = s.tx_lock := rfl
@[simp] theorem State.fold_tx_done : (s.fold b).tx_done = s.tx_done := rfl
@[simp] theorem State.fold_send_mutex : (s.fold b).send_mutex = s.send_mutex := rfl
@[simp] theorem State.fold_fs : (s.fold b).fs = s.fs := rfl
@[simp] theorem State.fold_f_type : (s.fold b).f_type = s.f_type := rfl
@[simp] theorem State.fold_f_length : (s.fold b).f_length = s.f_length := rfl
@[simp] theorem State.fold_f_data : (s.fold b).f_data = s.f_data := rfl
@[simp] theorem State.fold_f_idx : (s.fold b).f_idx = s.f_idx := rfl
@[simp] theorem State.fold_f_ck0 : (s.fold b).f_ck0 = s.f_ck0 + b := rfl
@[simp] theorem State.fold_f_ck1 : (s.fold b).f_ck1 = s.f_ck1 + (s.f_ck0 + b) := rfl
@[simp] theorem State.fold_mem : (s.fold b).mem = s.mem := rfl
@[simp] theorem State.fold_wire_tx : (s.fold b).wire_tx = s.wire_tx := rfl
@[simp] theorem State.fold_dispatch_log : (s.fold b).dispatch_log = s.dispatch_log := rfl
@[simp] theorem State.fold_diag_log : (s.fold b).diag_log = s.diag_log := rfl
@[simp] theorem State.fold_fault : (s.fold b).fault = s.fault := rfl
@[simp] theorem State.fold_task : (s.fold b).task = s.task := rfl
@[simp] theorem State.fold_prm : (s.fold b).prm = s.prm := rfl
@[simp] theorem State.fold_sched : (s.fold b).sched = s.sched := rfl
@[simp] theorem State.fold_ret : (s.fold b).ret = s.ret := rfl

end

/-- A task that returns has reported and is idle. -/
theorem State.finish_eq (s : State) (t : Nat) (r : Result) : s.finish t r = (s.setTask t .idle).report t r := rfl

section

variable (s u : State)

@[simp] theorem State.withDmaPath_ready : (s.withDmaPath u).ready = s.ready := rfl
@[simp] theorem State.withDmaPath_cfg : (s.withDmaPath u).cfg = s.cfg := rfl
@[simp] theorem State.withDmaPath_rdr : (s.withDmaPath u).rdr = s.rdr := rfl
@[simp] theorem State.withDmaPath_rxne : (s.withDmaPath u).rxne = s.rxne := rfl
@[simp] theorem State.withDmaPath_idle : (s.withDmaPath u).idle = s.idle := rfl
@[simp] theorem State.withDmaPath_pe : (s.withDmaPath u).pe = s.pe := rfl
@[simp] theorem State.withDmaPath_fe : (s.withDmaPath u).fe = s.fe := rfl
@[simp] theorem State.withDmaPath_ne : (s.withDmaPath u).ne = s.ne := rfl
@[simp] theorem State.withDmaPath_ore : (s.withDmaPath u).ore = s.ore := rfl
@[simp] theorem State.withDmaPath_txe : (s.withDmaPath u).txe = s.txe := rfl
@[simp] theorem State.withDmaPath_armed : (s.withDmaPath u).armed = s.armed := rfl
@[simp] theorem State.withDmaPath_fc_pend : (s.withDmaPath u).fc_pend = s.fc_pend := rfl
@[simp] theorem State.withDmaPath_rx_en : (s.withDmaPath u).rx_en = u.rx_en := rfl
@[simp] theorem State.withDmaPath_rx_remaining : (s.withDmaPath u).rx_remaining = u.rx_remaining := rfl
@[simp] theorem State.withDmaPath_rx_tcif : (s.withDmaPath u).rx_tcif = u.rx_tcif := rfl
@[simp] theorem State.withDmaPath_rx_buf : (s.withDmaPath u).rx_buf = u.rx_buf := rfl
@[simp] theorem State.withDmaPath_rx_done : (s.withDmaPath u).rx_done = u.rx_done := rfl
@[simp] theorem State.withDmaPath_stage : (s.withDmaPath u).stage = u.stage := rfl
@[simp] theorem State.withDmaPath_byteq : (s.withDmaPath u).byteq = s.byteq := rfl
@[simp] theorem State.withDmaPath_tx_en : (s.withDmaPath u).tx_en = s.tx_en := rfl
@[simp] theorem State.withDmaPath_tx_ptr : (s.withDmaPath u).tx_ptr = s.tx_ptr := rfl
@[simp] theorem State.withDmaPath_tx_count : (s.withDmaPath u).tx_count = s.tx_count := rfl
@[simp] theorem State.withDmaPath_tx_tcie : (s.withDmaPath u).tx_tcie = s.tx_tcie := rfl
@[simp] theorem State.withDmaPath_tx_tcif : (s.withDmaPath u).tx_tcif = s.tx_tcif := rfl
@[simp] theorem State.withDmaPath_tx_base : (s.withDmaPath u).tx_base = s.tx_base := rfl
@[simp] theorem State.withDmaPath_tx_size : (s.withDmaPath u).tx_size = s.tx_size := rfl
@[simp] theorem State.withDmaPath_is_paused : (s.withDmaPath u).is_paused = s.is_paused := rfl
@[simp] theorem State.withDmaPath_initial_count : (s.withDmaPath u).initial_count = s.initial_count := rfl
@[simp] theorem State.withDmaPath_remaining_count : (s.withDmaPath u).remaining_count = s.remaining_count := rfl
@[simp] theorem State.withDmaPath_fc_level : (s.withDmaPath u).fc_level = s.fc_level := rfl
@[simp] theorem State.withDmaPath_tx_lock : (s.withDmaPath u).tx_lock = s.tx_lock := rfl
@[simp] theorem State.withDmaPath_tx_done : (s.withDmaPath u).tx_done = s.tx_done := rfl
@[simp] theorem State.withDmaPath_send_mutex : (s.withDmaPath u).send_mutex = s.send_mutex := rfl
@[simp] theorem State.withDmaPath_fs : (s.withDmaPath u).fs = s.fs := rfl
@[simp] theorem State.withDmaPath_f_type : (s.withDmaPath u).f_type = s.f_type := rfl
@[simp] theorem State.withDmaPath_f_length : (s.withDmaPath u).f_length = s.f_length := rfl
@[simp] theorem State.withDmaPath_f_data : (s.withDmaPath u).f_data = s.f_data := rfl
@[simp] theorem State.withDmaPath_f_idx : (s.withDmaPath u).f_idx = s.f_idx := rfl
@[simp] theorem State.withDmaPath_f_ck0 : (s.withDmaPath u).f_ck0 = s.f_ck0 := rfl
@[simp] theorem State.withDmaPath_f_ck1 : (s.withDmaPath u).f_ck1 = s.f_ck1 := rfl
@[simp] theorem State.withDmaPath_mem : (s.withDmaPath u).mem = s.mem := rfl
@[simp] theorem State.withDmaPath_wire_tx : (s.withDmaPath u).wire_tx = s.wire_tx := rfl
@[simp] theorem State.withDmaPath_dispatch_log : (s.withDmaPath u).dispatch_log = s.dispatch_log := rfl
@[simp] theorem State.withDmaPath_diag_log : (s.withDmaPath u).diag_log = s.diag_log := rfl
@[simp] theorem State.withDmaPath_fault : (s.withDmaPath u).fault = s.fault := rfl
@[simp] theorem State.withDmaPath_task : (s.withDmaPath u).task = s.task := rfl
@[simp] theorem State.withDmaPath_prm : (s.withDmaPath u).prm = s.prm := rfl
@[simp] theorem State.withDmaPath_sched : (s.withDmaPath u).sched = s.sched := rfl
@[simp] theorem State.withDmaPath_ret : (s.withDmaPath u).ret = s.ret := rfl

end

section

variable (s u : State)

@[simp] theorem State.withIrqPath_ready : (s.withIrqPath u).ready = s.ready := rfl
@[simp] theorem State.withIrqPath_cfg : (s.withIrqPath u).cfg = s.cfg := rfl
@[simp] theorem State.withIrqPath_rdr : (s.withIrqPath u).rdr = u.rdr := rfl
@[simp] theorem State.withIrqPath_rxne : (s.withIrqPath u).rxne = u.rxne := rfl
@[simp] theorem State.withIrqPath_idle : (s.withIrqPath u).idle = s.idle := rfl
@[simp] theorem State.withIrqPath_pe : (s.withIrqPath u).pe = u.pe := rfl
@[simp] theorem State.withIrqPath_fe : (s.withIrqPath u).fe = u.fe := rfl
@[simp] theorem State.withIrqPath_ne : (s.withIrqPath u).ne = u.ne := rfl
@[simp] theorem State.withIrqPath_ore : (s.withIrqPath u).ore = u.ore := rfl
@[simp] theorem State.withIrqPath_txe : (s.withIrqPath u).txe = s.txe := rfl
@[simp] theorem State.withIrqPath_armed : (s.withIrqPath u).armed = s.armed := rfl
@[simp] theorem State.withIrqPath_fc_pend : (s.withIrqPath u).fc_pend = s.fc_pend := rfl
@[simp] theorem State.withIrqPath_rx_en : (s.withIrqPath u).rx_en = s.rx_en := rfl
@[simp] theorem State.withIrqPath_rx_remaining : (s.withIrqPath u).rx_remaining = s.rx_remaining := rfl
@[simp] theorem State.withIrqPath_rx_tcif : (s.withIrqPath u).rx_tcif = s.rx_tcif := rfl
@[simp] theorem State.withIrqPath_rx_buf : (s.withIrqPath u).rx_buf = s.rx_buf := rfl
@[simp] theorem State.withIrqPath_rx_done : (s.withIrqPath u).rx_done = s.rx_done := rfl
@[simp] theorem State.withIrqPath_stage : (s.withIrqPath u).stage = s.stage := rfl
@[simp] theorem State.withIrqPath_byteq : (s.withIrqPath u).byteq = u.byteq := rfl
@[simp] theorem State.withIrqPath_tx_en : (s.withIrqPath u).tx_en = s.tx_en := rfl
@[simp] theorem State.withIrqPath_tx_ptr : (s.withIrqPath u).tx_ptr = s.tx_ptr := rfl
@[simp] theorem State.withIrqPath_tx_count : (s.withIrqPath u).tx_count = s.tx_count := rfl
@[simp] theorem State.withIrqPath_tx_tcie : (s.withIrqPath u).tx_tcie = s.tx_tcie := rfl
@[simp] theorem State.withIrqPath_tx_tcif : (s.withIrqPath u).tx_tcif = s.tx_tcif := rfl
@[simp] theorem State.withIrqPath_tx_base : (s.withIrqPath u).tx_base = s.tx_base := rfl
@[simp] theorem State.withIrqPath_tx_size : (s.withIrqPath u).tx_size = s.tx_size := rfl
@[simp] theorem State.withIrqPath_is_paused : (s.withIrqPath u).is_paused = s.is_paused := rfl
@[simp] theorem State.withIrqPath_initial_count : (s.withIrqPath u).initial_count = s.initial_count := rfl
@[simp] theorem State.withIrqPath_remaining_count : (s.withIrqPath u).remaining_count = s.remaining_count := rfl
@[simp] theorem State.withIrqPath_fc_level : (s.withIrqPath u).fc_level = s.fc_level := rfl
@[simp] theorem State.withIrqPath_tx_lock : (s.withIrqPath u).tx_lock = s.tx_lock := rfl
@[simp] theorem State.withIrqPath_tx_done : (s.withIrqPath u).tx_done = s.tx_done := rfl
@[simp] theorem State.withIrqPath_send_mutex : (s.withIrqPath u).send_mutex = s.send_mutex := rfl
@[simp] theorem State.withIrqPath_fs : (s.withIrqPath u).fs = s.fs := rfl
@[simp] theorem State.withIrqPath_f_type : (s.withIrqPath u).f_type = s.f_type := rfl
@[simp] theorem State.withIrqPath_f_length : (s.withIrqPath u).f_length = s.f_length := rfl
@[simp] theorem State.withIrqPath_f_data : (s.withIrqPath u).f_data = s.f_data := rfl
@[simp] theorem State.withIrqPath_f_idx : (s.withIrqPath u).f_idx = s.f_idx := rfl
@[simp] theorem State.withIrqPath_f_ck0 : (s.withIrqPath u).f_ck0 = s.f_ck0 := rfl
@[simp] theorem State.withIrqPath_f_ck1 : (s.withIrqPath u).f_ck1 = s.f_ck1 := rfl
@[simp] theorem State.withIrqPath_mem : (s.withIrqPath u).mem = s.mem := rfl
@[simp] theorem State.withIrqPath_wire_tx : (s.withIrqPath u).wire_tx = s.wire_tx := rfl
@[simp] theorem State.withIrqPath_dispatch_log : (s.withIrqPath u).dispatch_log = s.dispatch_log := rfl
@[simp] theorem State.withIrqPath_diag_log : (s.withIrqPath u).diag_log = s.diag_log := rfl
@[simp] theorem State.withIrqPath_fault : (s.withIrqPath u).fault = s.fault := rfl
@[simp] theorem State.withIrqPath_task : (s.withIrqPath u).task = s.task := rfl
@[simp] theorem State.withIrqPath_prm : (s.withIrqPath u).prm = s.prm := rfl
@[simp] theorem State.withIrqPath_sched : (s.withIrqPath u).sched = s.sched := rfl
@[simp] theorem State.withIrqPath_ret : (s.withIrqPath u).ret = s.ret := rfl

end

end Sys2Proof.Machine
end

