-- ==== Sys2Proof/Laws/Memory.lean ====
section
/-! SUPPORT. The laws of `Mem`: a read after a write, writes elsewhere, the canonical form, and slices (20_memory.md rules
R30, R34). -/

namespace Sys2Proof.Machine

/-- The cell of a key. -/
def Memory.cell (m : Memory) (n : Nat) : Option Host.Cell := m.find? (fun c => c.1 == n)

theorem Memory.read_eq (m : Memory) (a : Addr) :
    m.read a = (match m.cell a.toNat with
      | some c => c.2
      | none => unlistedByte) := rfl

theorem Memory.mem_put {m : Memory} {n : Nat} {v : Byte} {c : Host.Cell} (h : c ∈ m.put n v) :
    c ∈ m ∨ (c = (n, v) ∧ v ≠ unlistedByte) := by
  induction m with
  | nil =>
    simp only [Memory.put] at h
    split at h <;> simp_all
  | cons d rest ih =>
    simp only [Memory.put] at h
    split at h
    · rcases List.mem_cons.mp h with rfl | h
      · simp
      · rcases ih h with h | h <;> simp [h]
    · split at h <;> split at h <;> simp_all <;> tauto

theorem Memory.put_wf {m : Memory} (hm : m.Wf) {n : Nat} (hn : n < 2 ^ 32) (v : Byte) : (m.put n v).Wf := by
  refine ⟨?_, fun c hc => ?_⟩
  · obtain ⟨hp, -⟩ := hm
    induction m with
    | nil => simp only [Memory.put]; split <;> simp
    | cons d rest ih =>
      obtain ⟨hd, hr⟩ := List.pairwise_cons.mp hp
      simp only [Memory.put]
      split
      · refine List.pairwise_cons.mpr ⟨fun c hc => ?_, ih hr⟩
        rcases Memory.mem_put hc with hc | ⟨rfl, -⟩
        · exact hd c hc
        · assumption
      · rename_i hle
        have tailp : (if d.1 = n then rest else d :: rest).Pairwise (fun c d => c.1 < d.1) := by
          split <;> assumption
        split
        · exact tailp
        · refine List.pairwise_cons.mpr ⟨fun c hc => ?_, tailp⟩
          split at hc
          · have := hd c hc; simp_all
          · rcases List.mem_cons.mp hc with rfl | hc
            · simp only; omega
            · have := hd c hc; simp only; omega
  · rcases Memory.mem_put hc with hc | ⟨rfl, hv⟩
    · exact hm.2 c hc
    · exact ⟨hn, hv⟩

theorem Memory.cell_none_of_lt {m : Memory} {k : Nat} (h : ∀ c ∈ m, k < c.1) : m.cell k = none := by
  simp only [Memory.cell, List.find?_eq_none]
  intro c hc
  have := h c hc
  simp; omega

theorem Memory.cell_put {m : Memory} (hm : m.Wf) (n k : Nat) (v : Byte) :
    (m.put n v).cell k = if k = n then (if v = unlistedByte then none else some (n, v)) else m.cell k := by
  obtain ⟨hp, -⟩ := hm
  induction m with
  | nil =>
    simp only [Memory.put, Memory.cell]
    by_cases hk : k = n
    · subst hk
      by_cases hv : v = unlistedByte <;> simp [hv]
    · have hk' : (n == k) = false := by simpa using fun e => hk e.symm
      by_cases hv : v = unlistedByte <;> simp [hv, hk, hk', List.find?]
  | cons d rest ih =>
    obtain ⟨hd, hr⟩ := List.pairwise_cons.mp hp
    have ih := ih hr
    simp only [Memory.put]
    split
    · rename_i hlt
      by_cases hdk : d.1 = k
      · subst hdk
        have : d.1 ≠ n := by omega
        simp [Memory.cell, List.find?, this]
      · have hdk' : (d.1 == k) = false := by simpa using hdk
        simp only [Memory.cell, List.find?_cons, hdk'] at ih ⊢
        exact ih
    · rename_i hle
      by_cases hkn : k = n
      · subst hkn
        simp only [if_true]
        have hnone : (if d.1 = k then rest else d :: rest).find? (fun c => c.1 == k) = none := by
          have : ∀ c ∈ (if d.1 = k then rest else d :: rest), k < c.1 := by
            intro c hc
            split at hc
            · have := hd c hc; omega
            · rcases List.mem_cons.mp hc with rfl | hc
              · omega
              · have := hd c hc; omega
          exact Memory.cell_none_of_lt this
        split
        · exact hnone
        · simp [Memory.cell, List.find?]
      · have hgo : (if d.1 = n then rest else d :: rest).find? (fun c => c.1 == k) =
            (d :: rest).find? (fun c => c.1 == k) := by
          split
          · rename_i h
            have : (d.1 == k) = false := by simp; omega
            simp [this]
          · rfl
        simp only [if_neg hkn, Memory.cell]
        split
        · exact hgo
        · have : (n == k) = false := by simp; omega
          rw [List.find?_cons]
          simp only [this]
          exact hgo

/-- A write keeps the canonical form. -/
theorem Memory.write_wf {m : Memory} (hm : m.Wf) (a : Addr) (v : Byte) : (m.write a v).Wf :=
  Memory.put_wf hm a.isLt v

/-- A read after a write: the written byte at its address, the old byte elsewhere. -/
theorem Memory.read_write {m : Memory} (hm : m.Wf) (a b : Addr) (v : Byte) :
    (m.write a v).read b = if b = a then v else m.read b := by
  simp only [Memory.read_eq, Memory.write, Memory.cell_put hm]
  by_cases h : b = a
  · subst h
    by_cases hv : v = unlistedByte <;> simp [hv]
  · have : b.toNat ≠ a.toNat := fun e => h (BitVec.eq_of_toNat_eq e)
    simp [h, this]

/-- Writes of a run of bytes keep the canonical form. -/
theorem Memory.writeBytes_wf {m : Memory} (hm : m.Wf) (a : Addr) (bs : List Byte) : (m.writeBytes a bs).Wf := by
  induction bs generalizing m a with
  | nil => exact hm
  | cons b rest ih => exact ih (Memory.write_wf hm a b) (a + 1)

/-- A read after the writes of a run of bytes that does not pass the top of memory. -/
theorem Memory.read_writeBytes {m : Memory} (hm : m.Wf) (a : Addr) (bs : List Byte) (b : Addr)
    (hfit : a.toNat + bs.length ≤ 2 ^ 32) :
    (m.writeBytes a bs).read b =
      if a.toNat ≤ b.toNat ∧ b.toNat < a.toNat + bs.length then bs.getD (b.toNat - a.toNat) 0 else m.read b := by
  induction bs generalizing m a with
  | nil => simp only [Memory.writeBytes, List.length_nil]; rw [if_neg (by omega)]
  | cons c rest ih =>
    simp only [Memory.writeBytes]
    simp only [List.length_cons] at hfit ⊢
    rcases Nat.eq_zero_or_pos rest.length with hz | hpos
    · have hrest : rest = [] := List.length_eq_zero_iff.mp hz
      subst hrest
      simp only [Memory.writeBytes, Memory.read_write hm, List.length_nil]
      by_cases h : b = a
      · subst h; simp
      · have : b.toNat ≠ a.toNat := fun e => h (BitVec.eq_of_toNat_eq e)
        rw [if_neg h, if_neg (by omega)]
    · have hsucc : (a + 1).toNat = a.toNat + 1 := by
        simp only [BitVec.toNat_add]
        rw [Nat.mod_eq_of_lt] <;> (simp; try omega)
      rw [ih (Memory.write_wf hm a c) (a + 1) (by rw [hsucc]; omega), hsucc, Memory.read_write hm]
      by_cases h : b = a
      · subst h
        rw [if_neg (by omega), if_pos rfl, if_pos (by omega)]
        simp
      · have hne : b.toNat ≠ a.toNat := fun e => h (BitVec.eq_of_toNat_eq e)
        by_cases hin : a.toNat + 1 ≤ b.toNat ∧ b.toNat < a.toNat + 1 + rest.length
        · rw [if_pos hin, if_pos (by omega)]
          obtain ⟨k, hk⟩ : ∃ k, b.toNat - a.toNat = k + 1 := ⟨b.toNat - a.toNat - 1, by omega⟩
          have : b.toNat - (a.toNat + 1) = k := by omega
          rw [hk, this, List.getD_cons_succ]
        · rw [if_neg hin, if_neg h, if_neg (by omega)]

@[simp] theorem Memory.slice_length (m : Memory) (a : Addr) (n : Nat) : (m.slice a n).length = n := by
  simp [Memory.slice]

/-- A slice one byte longer. -/
theorem Memory.slice_succ (m : Memory) (a : Addr) (n : Nat) :
    m.slice a (n + 1) = m.slice a n ++ [m.read (a + BitVec.ofNat 32 n)] := by
  simp [Memory.slice, List.range_succ]

/-- A shorter slice is a prefix of a longer one. -/
theorem Memory.slice_take (m : Memory) (a : Addr) {k n : Nat} (h : k ≤ n) :
    (m.slice a n).take k = m.slice a k := by
  simp [Memory.slice, ← List.map_take, List.take_range, Nat.min_eq_left h]

/-- A slice whose bytes are those of a list. -/
theorem Memory.slice_eq_of_read {m : Memory} {a : Addr} {bs : List Byte}
    (h : ∀ k < bs.length, m.read (a + BitVec.ofNat 32 k) = bs.getD k 0) : m.slice a bs.length = bs := by
  refine List.ext_getElem (by simp) fun k h1 h2 => ?_
  have := h k h2
  simp [Memory.slice, this, h2]

/-- Equal reads give equal slices. -/
theorem Memory.slice_congr {m m' : Memory} {a : Addr} {n : Nat}
    (h : ∀ k < n, m'.read (a + BitVec.ofNat 32 k) = m.read (a + BitVec.ofNat 32 k)) : m'.slice a n = m.slice a n := by
  simp only [Memory.slice]
  exact List.map_congr_left fun k hk => h k (List.mem_range.mp hk)

/-- What a run of written bytes reads back as. -/
theorem Memory.slice_writeBytes {m : Memory} (hm : m.Wf) (a : Addr) (bs : List Byte)
    (hfit : a.toNat + bs.length ≤ 2 ^ 32) : (m.writeBytes a bs).slice a bs.length = bs := by
  refine Memory.slice_eq_of_read fun k hk => ?_
  have hs : (a + BitVec.ofNat 32 k).toNat = a.toNat + k := by
    simp only [BitVec.toNat_add, BitVec.toNat_ofNat]
    omega
  rw [Memory.read_writeBytes hm a bs _ hfit, hs, if_pos (by omega)]
  congr 1
  omega

end Sys2Proof.Machine
end

