-- ==== Sys2Proof/Laws/Ops.lean ====
section
/-! SUPPORT. One lemma per shared operation that says once everything it can do: when it waits, when it runs, and what a
next state comes from. -/

namespace Sys2Proof.Machine

variable {s s' : State} {t : Nat} {k : Out} {b : Byte}

@[simp] theorem waits_eq (s : State) : waits s = .next s := rfl

theorem andThen_next {o : Out} {f : State → Out} :
    andThen o f = .next s' ↔ ∃ s1, o = .next s1 ∧ f s1 = .next s' := by
  cases o <;> simp [andThen]

@[simp] theorem andThen_next_left (f : State → Out) : andThen (.next s) f = f s := rfl

/-! ### Guards -/

theorem isSome_fault : s.fault.isSome = true ↔ s.fault ≠ none := by
  cases s.fault <;> simp

theorem taskStep_faulted {f : TaskState → Out} (h : s.fault ≠ none) : taskStep s t f = .next s := by
  simp [taskStep, isSome_fault.mpr h]

theorem taskStep_run {f : TaskState → Out} {ts : TaskState} (h : s.TaskIs t ts) : taskStep s t f = f ts := by
  simp [taskStep, h.1, h.2]

theorem taskStep_next {f : TaskState → Out} (h : taskStep s t f = .next s') :
    s' = s ∨ ∃ ts, s.TaskIs t ts ∧ f ts = .next s' := by
  by_cases hf : s.fault = none
  · cases ht : s.task[t]? with
    | none => simp [taskStep, hf, ht] at h
    | some ts => exact .inr ⟨ts, ⟨hf, ht⟩, by simpa [taskStep, hf, ht] using h⟩
  · rw [taskStep_faulted hf] at h
    cases h; exact .inl rfl

theorem framerStep_faulted (h : s.fault ≠ none) : framerStep s k = .next s := taskStep_faulted h

theorem framerStep_run (h : s.FramerIdle) : framerStep s k = k := by
  simp [framerStep, taskStep_run h]

theorem framerStep_next (h : framerStep s k = .next s') : s' = s ∨ (s.FramerIdle ∧ k = .next s') := by
  rcases taskStep_next h with rfl | ⟨ts, hts, h⟩
  · exact .inl rfl
  · cases ts with
    | idle => exact .inr ⟨hts, h⟩
    | sendLowRate | sendDma | sendPacket | recvTimeout => cases h; exact .inl rfl

theorem serviceEnabled_iff {p : Bool} :
    s.serviceEnabled p = true ↔ s.fault = none ∧ s.armed = true ∧ p = true := by
  cases hf : s.fault <;> simp [State.serviceEnabled, hf]

theorem irqStep_run {p : Bool} (hf : s.fault = none) (ha : s.armed = true) (hp : p = true) : irqStep s p k = k := by
  simp [irqStep, serviceEnabled_iff.mpr ⟨hf, ha, hp⟩]

theorem irqStep_wait {p : Bool} (h : s.fault ≠ none ∨ s.armed = false ∨ p = false) : irqStep s p k = .next s := by
  have : ¬ s.serviceEnabled p = true := by
    rw [serviceEnabled_iff]
    rcases h with h | h | h <;> simp [h]
  simp [irqStep, this]

theorem irqStep_next {p : Bool} (h : irqStep s p k = .next s') :
    s' = s ∨ (s.fault = none ∧ s.armed = true ∧ p = true ∧ k = .next s') := by
  by_cases hs : s.serviceEnabled p = true
  · obtain ⟨hf, ha, hp⟩ := serviceEnabled_iff.mp hs
    exact .inr ⟨hf, ha, hp, by simpa [irqStep, hs] using h⟩
  · simp [irqStep, hs] at h
    exact .inl h.symm

theorem liveStep_faulted (h : s.fault ≠ none) : liveStep s k = .next s := by
  simp [liveStep, isSome_fault.mpr h]

theorem liveStep_run (h : s.fault = none) : liveStep s k = k := by
  simp [liveStep, h]

theorem liveStep_next (h : liveStep s k = .next s') : s' = s ∨ (s.fault = none ∧ k = .next s') := by
  by_cases hf : s.fault = none
  · exact .inr ⟨hf, by rwa [liveStep_run hf] at h⟩
  · rw [liveStep_faulted hf] at h
    cases h; exact .inl rfl

theorem receiverStep_run (hf : s.fault = none) (hr : s.ready = true) : receiverStep s k = k := by
  simp [receiverStep, liveStep_run hf, hr]

theorem receiverStep_silent (hr : s.ready = false) : receiverStep s k = .next s := by
  by_cases hf : s.fault = none
  · simp [receiverStep, liveStep_run hf, hr]
  · exact liveStep_faulted hf

theorem receiverStep_next (h : receiverStep s k = .next s') :
    s' = s ∨ (s.fault = none ∧ s.ready = true ∧ k = .next s') := by
  rcases liveStep_next h with rfl | ⟨hf, h⟩
  · exact .inl rfl
  · by_cases hr : s.ready = true
    · exact .inr ⟨hf, hr, by simpa [hr] using h⟩
    · simp [hr] at h
      exact .inl h.symm

theorem blockUntil_next {r : Option State} {f : State → State} (h : blockUntil s r f = .next s') :
    s' = s ∨ ∃ s1, r = some s1 ∧ s' = f s1 := by
  cases r with
  | none => cases h; exact .inl rfl
  | some s1 => cases h; exact .inr ⟨s1, rfl, rfl⟩

/-! ### Locks and rendezvous -/

theorem acquireTxLock_some (h : s.acquireTxLock t = some s') : s.tx_lock = .free ∧ s' = { s with tx_lock := .held t } := by
  unfold State.acquireTxLock at h
  split at h <;> simp_all

theorem acquireSendMutex_some (h : s.acquireSendMutex t = some s') :
    s.send_mutex = .free ∧ s' = { s with send_mutex := .held t } := by
  unfold State.acquireSendMutex at h
  split at h <;> simp_all

theorem takeTxDone_some (h : s.takeTxDone = some s') : s.tx_done = true ∧ s' = { s with tx_done := false } := by
  unfold State.takeTxDone at h
  split at h <;> simp_all

theorem programTx_some {addr : Addr} {size : Count} (h : s.programTx addr size = some s') :
    s.tx_en = false ∧ s.is_paused = false ∧
    s' = { s with tx_base := addr, tx_size := size, tx_ptr := addr, tx_count := size, tx_tcie := true, tx_en := true } := by
  unfold State.programTx at h
  split at h <;> simp_all

/-! ### Arrays -/

theorem storeAt_some {xs ys : List Byte} {i : Nat} {v : Byte} :
    storeAt xs i v = some ys ↔ i < xs.length ∧ ys = xs.set i v := by
  simp [storeAt, eq_comm]

theorem readPrefix_some {xs ys : List Byte} {n : Nat} :
    readPrefix xs n = some ys ↔ n ≤ xs.length ∧ ys = xs.take n := by
  simp [readPrefix, eq_comm]

/-! ### Updates with branches, as one record -/

theorem paused_eq (s : State) : s.paused = { s with
    tx_en := false
    remaining_count := if s.tx_en then s.tx_count else s.remaining_count
    initial_count := if s.tx_en then s.tx_size else s.initial_count
    is_paused := s.is_paused || s.tx_en } := by
  obtain ⟨⟩ := s
  simp only [State.paused]
  split <;> simp_all

theorem resumed_eq (s : State) : s.resumed = { s with
    tx_count := if s.is_paused then s.remaining_count else s.tx_count
    tx_ptr := if s.is_paused then s.tx_base + (s.initial_count - s.remaining_count) else s.tx_ptr
    tx_tcie := s.tx_tcie || s.is_paused
    tx_en := s.tx_en || s.is_paused
    is_paused := false } := by
  obtain ⟨⟩ := s
  simp only [State.resumed, State.resumePtr]
  split <;> simp_all

theorem latch_eq (s : State) (b : Byte) : s.latch b = { s with
    rdr := if s.rxne then s.rdr else b
    rxne := true
    ore := s.ore || s.rxne } := by
  obtain ⟨⟩ := s
  simp only [State.latch]
  split <;> simp_all

/-- The byte-interrupt path's update, if that path sees the byte. -/
def State.latchIf (s : State) (c : Bool) (b : Byte) : State := { s with
  rdr := if c && !s.rxne then b else s.rdr
  rxne := s.rxne || c
  ore := s.ore || (c && s.rxne) }

theorem latchIf_eq (s : State) (c : Bool) (b : Byte) : (if c then s.latch b else s) = s.latchIf c b := by
  obtain ⟨⟩ := s
  cases c
  · simp [State.latchIf]
  · simp [latch_eq, State.latchIf]
    split <;> simp_all

theorem setLineError_eq (s : State) (kind : LineError) : s.setLineError kind = { s with
    pe := s.pe || kind == .pe
    fe := s.fe || kind == .fe
    ne := s.ne || kind == .ne } := by
  obtain ⟨⟩ := s
  cases kind <;> simp [State.setLineError, BEq.beq]

/-- A receive beat, at the index `rxValid`. -/
def State.stored (s : State) (b : Byte) : State := { s with
  rx_buf := s.rx_buf.set s.rxValid b
  rx_remaining := s.rx_remaining - 1
  rx_en := if s.rx_remaining - 1 = 0 then false else s.rx_en
  rx_tcif := if s.rx_remaining - 1 = 0 then true else s.rx_tcif }

theorem rxBeat_some : s.rxBeat b = some s' ↔ s.rxValid < s.rx_buf.length ∧ s' = s.stored b := by
  simp only [State.rxBeat, Option.map_eq_some_iff, storeAt_some]
  constructor
  · rintro ⟨d, ⟨hlt, rfl⟩, rfl⟩
    exact ⟨hlt, rfl⟩
  · rintro ⟨hlt, rfl⟩
    exact ⟨_, ⟨hlt, rfl⟩, rfl⟩

theorem clearCause_eq (s : State) (c : RxCause) : s.clearCause c = { s with
    rx_tcif := s.rx_tcif && decide (c = .idle)
    idle := s.idle && decide (c = .tc) } := by
  cases c <;> simp [State.clearCause]

theorem drained_eq (s : State) (max : Nat) : s.drained max = { s with
    stage := if s.ready && s.rx_done then s.stage.drop max else s.stage
    rx_done := s.rx_done && !(s.ready && (s.stage.drop max).isEmpty) } := by
  have keep : ∀ (x : List Byte) (y : Bool) (z : State), z.stage = x → z.rx_done = y → z = { z with stage := x, rx_done := y } := by
    rintro _ _ z rfl rfl; rfl
  unfold State.drained
  by_cases h : (s.ready && s.rx_done) = true
  · rw [if_pos h, if_pos h]
    simp only [Bool.and_eq_true] at h
    cases hq : s.stage.drop max <;> simp [h.1, h.2]
  · rw [if_neg h, if_neg h]
    refine keep _ _ s rfl ?_
    cases hr : s.ready <;> cases hd : s.rx_done <;> simp [hr, hd] at h ⊢

theorem dispatched_eq (s : State) (p : Packet) : s.dispatched p = { s with
    dispatch_log := s.dispatch_log ++ ((handlerOf s.prm (groupTag s.prm p.type)).map (fun h => (h, p))).toList
    diag_log := s.diag_log ++ if handlerOf s.prm (groupTag s.prm p.type) = none then [.unknownGroup p] else [] } := by
  unfold State.dispatched
  split <;> rename_i h <;> simp [h]

end Sys2Proof.Machine
end

