-- ==== Sys2Proof/Laws/Framer.lean ====
section
/-! SUPPORT. The framer's transition (43_framer.md rules R80 to R88): what it changes, that it completes in every state with
the framer's invariant, and that every framer operation is made of it. -/

namespace Sys2Proof.Machine

variable {s s' : State} {b : Byte}

/-- The framer changes its own registers and appends to the two logs; every other field stays (rule R23). -/
structure FramerFrame (s s' : State) : Prop where
  frame : s' = { s with
    fs := s'.fs
    f_type := s'.f_type
    f_length := s'.f_length
    f_data := s'.f_data
    f_idx := s'.f_idx
    f_ck0 := s'.f_ck0
    f_ck1 := s'.f_ck1
    dispatch_log := s'.dispatch_log
    diag_log := s'.diag_log }
  dispatch : s.dispatch_log <+: s'.dispatch_log
  diag : s.diag_log <+: s'.diag_log

theorem FramerFrame.refl (s : State) : FramerFrame s s := ⟨rfl, List.prefix_rfl, List.prefix_rfl⟩

theorem FramerFrame.trans {s1 s2 s3 : State} (h : FramerFrame s1 s2) (h' : FramerFrame s2 s3) : FramerFrame s1 s3 := by
  refine ⟨?_, h.dispatch.trans h'.dispatch, h.diag.trans h'.diag⟩
  rw [h'.frame, h.frame]

theorem dispatched_frame (s : State) (p : Packet) : FramerFrame s (s.dispatched p) := by
  unfold State.dispatched
  split <;> exact ⟨rfl, by simp, by simp⟩

theorem goto_frame {x : FramerState} (h : FramerFrame s s') : FramerFrame s (s'.goto x) :=
  h.trans ⟨rfl, List.prefix_rfl, List.prefix_rfl⟩

theorem dataTaken_some (h : s.dataTaken b = some s') :
    s.f_idx < s.f_data.length ∧
    s' = { s with
      f_data := s.f_data.set s.f_idx b
      f_ck0 := s.f_ck0 + b
      f_ck1 := s.f_ck1 + (s.f_ck0 + b)
      f_idx := s.f_idx + 1 } := by
  simp only [State.dataTaken, Option.map_eq_some_iff, storeAt_some] at h
  obtain ⟨d, ⟨hlt, rfl⟩, rfl⟩ := h
  exact ⟨hlt, rfl⟩

theorem dataTaken_eq (h : s.f_idx < s.f_data.length) :
    s.dataTaken b = some { s with
      f_data := s.f_data.set s.f_idx b
      f_ck0 := s.f_ck0 + b
      f_ck1 := s.f_ck1 + (s.f_ck0 + b)
      f_idx := s.f_idx + 1 } := by
  simp [State.dataTaken, storeAt, h, State.fold, foldCk]

theorem assembled_eq (h : s.f_length.toNat ≤ s.f_data.length) :
    s.assembled = some { type := s.f_type, length := s.f_length, data := s.f_data.take s.f_length.toNat } := by
  simp [State.assembled, readPrefix, h]

/-- One transition changes only what `FramerFrame` names. -/
theorem feedByte_frame (h : feedByte b s = .next s') : FramerFrame s s' := by
  unfold feedByte at h
  cases hfs : s.fs <;> simp only [hfs] at h
  · unfold feedWaitStart1 at h
    split at h <;> cases h
    · exact goto_frame (.refl s)
    · exact .refl s
  · unfold feedWaitStart2 at h
    split at h <;> cases h <;> exact goto_frame (.refl s)
  · cases h
    exact goto_frame ⟨rfl, List.prefix_rfl, List.prefix_rfl⟩
  · unfold feedWaitLength at h
    split at h <;> cases h
    · exact goto_frame ⟨rfl, List.prefix_rfl, List.prefix_rfl⟩
    · exact goto_frame ⟨rfl, List.prefix_rfl, List.prefix_rfl⟩
  · unfold feedWaitData at h
    split at h
    · cases h
    · rename_i s1 hs1
      obtain ⟨-, rfl⟩ := dataTaken_some hs1
      cases h
      split
      · exact goto_frame ⟨rfl, List.prefix_rfl, List.prefix_rfl⟩
      · exact ⟨rfl, List.prefix_rfl, List.prefix_rfl⟩
  · unfold feedWaitChecksum1 at h
    split at h <;> cases h <;> exact goto_frame (.refl s)
  · unfold feedWaitChecksum2 at h
    split at h
    · split at h
      · cases h
      · cases h
        exact goto_frame (dispatched_frame s _)
    · cases h
      exact goto_frame (.refl s)

/-- A run of bytes changes only what `FramerFrame` names. -/
theorem feedBytes_frame {bs : List Byte} (h : feedBytes bs s = .next s') : FramerFrame s s' := by
  induction bs generalizing s with
  | nil => cases h; exact .refl _
  | cons b rest ih =>
    obtain ⟨s1, h1, h2⟩ := andThen_next.mp h
    exact (feedByte_frame h1).trans (ih h2)

/-! The framer does not read the byte-interrupt path (rule R79). -/

theorem dispatched_withIrqPath (s u : State) (p : Packet) :
    (s.withIrqPath u).dispatched p = (s.dispatched p).withIrqPath u := by
  have h : handlerOf (s.withIrqPath u).prm (groupTag (s.withIrqPath u).prm p.type) =
      handlerOf s.prm (groupTag s.prm p.type) := rfl
  unfold State.dispatched
  rw [h]
  cases handlerOf s.prm (groupTag s.prm p.type) <;> rfl

/-- A transition is the same whatever the byte-interrupt path holds. -/
theorem feedByte_withIrqPath (u : State) (h : feedByte b s = .next s') :
    feedByte b (s.withIrqPath u) = .next (s'.withIrqPath u) := by
  have hfs : (s.withIrqPath u).fs = s.fs := rfl
  unfold feedByte at h ⊢
  rw [hfs]
  cases hx : s.fs <;> simp only [hx] at h ⊢
  · unfold feedWaitStart1 at h ⊢
    split at h <;> rename_i hc <;> cases h
    · rw [if_pos hc]; rfl
    · rw [if_neg hc]
  · unfold feedWaitStart2 at h ⊢
    split at h <;> rename_i hc <;> cases h
    · rw [if_pos hc]; rfl
    · rw [if_neg hc]; rfl
  · cases h; rfl
  · unfold feedWaitLength at h ⊢
    have hp : (s.withIrqPath u).prm = s.prm := rfl
    rw [hp]
    split at h <;> rename_i hc <;> cases h
    · rw [if_pos hc]; rfl
    · rw [if_neg hc]; rfl
  · unfold feedWaitData at h ⊢
    split at h
    · cases h
    · rename_i s1 h1
      have hd : (s.withIrqPath u).dataTaken b = some (s1.withIrqPath u) := by
        obtain ⟨hlt, rfl⟩ := dataTaken_some h1
        exact (dataTaken_eq hlt)
      rw [hd]
      cases h
      simp only
      split <;> rename_i hc <;> simp_all [State.withIrqPath, State.goto]
  · unfold feedWaitChecksum1 at h ⊢
    have hk : (s.withIrqPath u).f_ck0 = s.f_ck0 := rfl
    rw [hk]
    split at h <;> rename_i hc <;> cases h
    · rw [if_pos hc]; rfl
    · rw [if_neg hc]; rfl
  · unfold feedWaitChecksum2 at h ⊢
    have h1 : (s.withIrqPath u).f_ck1 = s.f_ck1 := rfl
    have h2 : (s.withIrqPath u).assembled = s.assembled := rfl
    rw [h1, h2]
    split at h
    · rename_i hc
      rw [if_pos hc]
      split at h <;> cases h
      simp only [dispatched_withIrqPath]; rfl
    · rename_i hc
      rw [if_neg hc]; cases h; rfl

/-- A run of bytes is fed the same whatever the byte-interrupt path holds. -/
theorem feedBytes_withIrqPath {bs : List Byte} (u : State) (h : feedBytes bs s = .next s') :
    feedBytes bs (s.withIrqPath u) = .next (s'.withIrqPath u) := by
  induction bs generalizing s with
  | nil => cases h; rfl
  | cons b rest ih =>
    obtain ⟨s1, h1, h2⟩ := andThen_next.mp h
    exact andThen_next.mpr ⟨_, feedByte_withIrqPath u h1, ih h2⟩

@[simp] theorem dispatched_registers (s : State) (p : Packet) :
    (s.dispatched p).fs = s.fs ∧ (s.dispatched p).f_type = s.f_type ∧ (s.dispatched p).f_length = s.f_length ∧
    (s.dispatched p).f_data = s.f_data ∧ (s.dispatched p).f_idx = s.f_idx ∧ (s.dispatched p).f_ck0 = s.f_ck0 ∧
    (s.dispatched p).f_ck1 = s.f_ck1 ∧ (s.dispatched p).prm = s.prm := by
  unfold State.dispatched
  split <;> simp

/-- From a state with the framer's invariant a transition completes and keeps it (10_state.md rule R28 item 6). -/
theorem feedByte_completes (b : Byte) (h : s.FramerOk) : ∃ s', feedByte b s = .next s' ∧ s'.FramerOk := by
  obtain ⟨harr, hdata, hck⟩ := h
  unfold feedByte
  cases hfs : s.fs
  · simp only [feedWaitStart1]
    split <;> exact ⟨_, rfl, by simp [State.FramerOk, harr, hfs]⟩
  · simp only [feedWaitStart2]
    split <;> exact ⟨_, rfl, by simp [State.FramerOk, harr]⟩
  · exact ⟨_, rfl, by simp [State.FramerOk, State.goto, harr]⟩
  · simp only [feedWaitLength]
    split
    · exact ⟨_, rfl, by simp [State.FramerOk, State.lengthRejected, State.goto, harr]⟩
    · rename_i hle
      have hle : b ≤ s.prm.mtu := by simpa using hle
      refine ⟨_, rfl, ?_⟩
      by_cases hb : b = 0
      · subst hb
        simp only [State.FramerOk, State.lengthTaken, State.goto, State.fold, harr]
        exact ⟨trivial, by simp, fun _ => ⟨rfl, hle⟩⟩
      · have : 0 < b.toNat := by
          rcases Nat.eq_zero_or_pos b.toNat with h0 | h0
          · exact absurd (BitVec.eq_of_toNat_eq (by simpa using h0)) hb
          · exact h0
        simp only [State.FramerOk, State.lengthTaken, State.goto, State.fold, harr, if_neg hb]
        exact ⟨trivial, fun _ => ⟨this, hle⟩, by simp⟩
  · obtain ⟨hlt, hle⟩ := hdata hfs
    have hlen : s.f_idx < s.f_data.length := by
      rw [harr]; exact Nat.lt_of_lt_of_le hlt hle
    simp only [feedWaitData, dataTaken_eq hlen]
    refine ⟨_, rfl, ?_⟩
    split
    · rename_i heq
      simp [State.FramerOk, State.goto, harr, heq, hle]
    · rename_i hne
      simp only [State.FramerOk, List.length_set, harr, hfs, true_and]
      exact ⟨fun _ => ⟨by omega, hle⟩, by simp⟩
  · obtain ⟨hidx, hle⟩ := hck (.inl hfs)
    simp only [feedWaitChecksum1]
    split <;> exact ⟨_, rfl, by simp [State.FramerOk, harr, hidx, hle]⟩
  · obtain ⟨hidx, hle⟩ := hck (.inr hfs)
    have hlen : s.f_length.toNat ≤ s.f_data.length := by rw [harr]; exact hle
    simp only [feedWaitChecksum2, assembled_eq hlen]
    split
    · exact ⟨_, rfl, by simp [State.FramerOk, harr]⟩
    · exact ⟨_, rfl, by simp [State.FramerOk, harr]⟩

/-- A run of bytes completes and keeps the framer's invariant. -/
theorem feedBytes_completes (bs : List Byte) (h : s.FramerOk) : ∃ s', feedBytes bs s = .next s' ∧ s'.FramerOk := by
  induction bs generalizing s with
  | nil => exact ⟨s, rfl, h⟩
  | cons b rest ih =>
    obtain ⟨s1, h1, hok⟩ := feedByte_completes b h
    obtain ⟨s2, h2, hok'⟩ := ih hok
    exact ⟨s2, by simp [feedBytes, h1, h2], hok'⟩

theorem feedByte_keeps (h : s.FramerOk) (hs : feedByte b s = .next s') : s'.FramerOk := by
  obtain ⟨s1, h1, hok⟩ := feedByte_completes b h
  rw [h1] at hs
  cases hs; exact hok

theorem feedBytes_keeps {bs : List Byte} (h : s.FramerOk) (hs : feedBytes bs s = .next s') : s'.FramerOk := by
  obtain ⟨s1, h1, hok⟩ := feedBytes_completes bs h
  rw [h1] at hs
  cases hs; exact hok

/-- The state of a poll of the framing task once `GET_AVAILABLE(POLL_MAX)` has returned (rule R89). -/
def State.polled (s : State) : State :=
  (s.drained s.prm.pollMax).report s.prm.framingTask (.available (s.availableBytes s.prm.pollMax))

theorem feedRowStep_next {x : FramerState} {c : Bool} {k : Out} (h : feedRowStep s x c k = .next s') :
    s' = s ∨ (s.FramerIdle ∧ s.fs = x ∧ c = true ∧ k = .next s') := by
  rcases framerStep_next h with h | ⟨hi, h⟩
  · exact .inl h
  · split at h
    · rename_i hc
      exact .inr ⟨hi, hc.1, hc.2, h⟩
    · cases h; exact .inl rfl

theorem feedRowStep_run {x : FramerState} {c : Bool} {k : Out} (hi : s.FramerIdle) (hx : s.fs = x) (hc : c = true) :
    feedRowStep s x c k = k := by
  simp [feedRowStep, framerStep_run hi, hx, hc]

theorem feedRowStep_wait {x : FramerState} {c : Bool} {k : Out} (hi : s.FramerIdle) (h : s.fs ≠ x ∨ c = false) :
    feedRowStep s x c k = .next s := by
  rcases h with h | h <;> simp [feedRowStep, framerStep_run hi, h]

/-- A row whose transition is that of `FEED` in its state is a transition or waits. -/
theorem row_next {x : FramerState} {c : Bool} {k : Out} (h : feedRowStep s x c k = .next s')
    (hk : s.fs = x → c = true → k = feedByte b s) : s' = s ∨ (s.FramerIdle ∧ feedByte b s = .next s') := by
  rcases feedRowStep_next h with h | ⟨hi, hx, hc, h⟩
  · exact .inl h
  · exact .inr ⟨hi, by rw [← hk hx hc]; exact h⟩

theorem bne_iff {a c : Byte} : (a != c) = true ↔ a ≠ c := by simp

/-- Every framer operation waits, or feeds a run of bytes to the state or, for a poll, to the polled state. -/
theorem framerInstr_next {i : Instr} (hi : i.isFramer = true) (h : exec i s = .next s') :
    s' = s ∨ (s.FramerIdle ∧ ∃ s0 bs, (s0 = s ∨ i = .framerPoll ∧ s0 = s.polled ∧
      bs = s.availableBytes s.prm.pollMax) ∧ feedBytes bs s0 = .next s') := by
  have row : ∀ {b : Byte}, (s' = s ∨ (s.FramerIdle ∧ feedByte b s = .next s')) →
      s' = s ∨ (s.FramerIdle ∧ ∃ s0 bs, (s0 = s ∨ i = .framerPoll ∧ s0 = s.polled ∧
        bs = s.availableBytes s.prm.pollMax) ∧ feedBytes bs s0 = .next s') := by
    rintro b (h | ⟨hi, h⟩)
    · exact .inl h
    · exact .inr ⟨hi, s, [b], .inl rfl, by simp [feedBytes, h]⟩
  cases i with
  | framerPoll =>
    rcases framerStep_next h with h | ⟨hf, h⟩
    · exact .inl h
    · exact .inr ⟨hf, _, _, .inr ⟨rfl, rfl, rfl⟩, h⟩
  | frame f =>
    rcases framerStep_next h with h | ⟨hf, h⟩
    · exact .inl h
    · exact .inr ⟨hf, _, _, .inl rfl, h⟩
  | feed b => exact row (framerStep_next h)
  | feedWaitStart1Sync =>
    exact row (row_next (b := startByte1) h fun hx _ => by simp [feedByte, hx, feedWaitStart1])
  | feedWaitStart1Other b =>
    exact row (row_next (b := b) h fun hx hc => by simp [feedByte, hx, feedWaitStart1, bne_iff.mp hc])
  | feedWaitStart2Sync =>
    exact row (row_next (b := startByte2) h fun hx _ => by simp [feedByte, hx, feedWaitStart2])
  | feedWaitStart2Other b =>
    exact row (row_next (b := b) h fun hx hc => by simp [feedByte, hx, feedWaitStart2, bne_iff.mp hc])
  | feedWaitTypeAny b => exact row (row_next (b := b) h fun hx _ => by simp [feedByte, hx])
  | feedWaitLengthOversize b =>
    exact row (row_next (b := b) h fun hx hc => by simp [feedByte, hx, feedWaitLength, of_decide_eq_true hc])
  | feedWaitLengthZero =>
    exact row (row_next (b := 0) h fun hx _ => by simp [feedByte, hx, feedWaitLength])
  | feedWaitLengthData b =>
    refine row (row_next (b := b) h fun hx hc => ?_)
    simp only [Bool.and_eq_true, bne_iff, decide_eq_true_eq] at hc
    have : ¬ s.prm.mtu < b := by simpa using hc.2
    simp only [feedByte, hx, feedWaitLength, if_neg this, if_neg hc.1]
  | feedWaitDataMore b =>
    refine row (row_next (b := b) h fun hx hc => ?_)
    have hc := of_decide_eq_true hc
    have : s.f_idx + 1 ≠ s.f_length.toNat := by omega
    simp only [feedByte, hx, feedWaitData, if_neg this]
  | feedWaitDataLast b =>
    refine row (row_next (b := b) h fun hx hc => ?_)
    have hc := of_decide_eq_true hc
    simp only [feedByte, hx, feedWaitData, if_pos hc]
  | feedWaitChecksum1Match b =>
    exact row (row_next (b := b) h fun hx hc => by simp [feedByte, hx, feedWaitChecksum1, eq_of_beq hc])
  | feedWaitChecksum1Mismatch b =>
    exact row (row_next (b := b) h fun hx hc => by simp [feedByte, hx, feedWaitChecksum1, bne_iff.mp hc])
  | feedWaitChecksum2Match b =>
    exact row (row_next (b := b) h fun hx hc => by simp only [feedByte, hx, feedWaitChecksum2, if_pos (eq_of_beq hc)])
  | feedWaitChecksum2Mismatch b =>
    exact row (row_next (b := b) h fun hx hc => by simp only [feedByte, hx, feedWaitChecksum2, if_neg (bne_iff.mp hc)])
  | init | sendLowRate | sendDma | recvTimeout | getAvailable | sendPacket | dispatch | rxneIsr | rxCompleteIsr
  | txTcIsr | fcIsr | pauseTx | resumeTx | txBeat | rxByte | rxError | rxIdle | fcEdge | txEmpty | timeoutExpire
  | serialize => cases hi

end Sys2Proof.Machine
end

