-- ==== Sys2Proof/Laws/Effect.lean ====
section
/-! SUPPORT. Once for all: everything an operation can do. `Effect s i s'` lists, with its conditions, each way the
operation `i` changes `s`; `exec_effect` says that a next state is `s` itself or comes from one of them. Whole-machine
proofs split on this and unfold no meaning. -/

namespace Sys2Proof.Machine

/-- The states an operation can lead to, each with the condition of its rule. -/
inductive Effect (s : State) : Instr → State → Prop where
  | init {t : Nat} (h : s.TaskIs t .idle) (hr : s.ready = false) : Effect s (.init t) s.initialised
  | lowRateEntry {t : Nat} {bytes : List Byte} (h : s.TaskIs t .idle) (hr : s.ready = true) (hb : bytes ≠ []) :
      Effect s (.sendLowRate t bytes) (s.setTask t (.sendLowRate bytes 0))
  | lowRateByte {t : Nat} {bytes : List Byte} {i : Nat} {b : Byte} (h : s.TaskIs t (.sendLowRate bytes i))
      (hx : s.txe = true) (hb : bytes[i]? = some b) :
      Effect s (.sendLowRate t bytes)
        ((s.emitTx b).setTask t (if i + 1 = bytes.length then .idle else .sendLowRate bytes (i + 1)))
  | dmaAbsent {t : Nat} {a : Addr} {n : Count} (h : s.TaskIs t .idle) (hr : s.ready = false) :
      Effect s (.sendDma t a n) (s.report t .driverAbsent)
  | dmaEntry {t : Nat} {a : Addr} {n : Count} (h : s.TaskIs t .idle) (hr : s.ready = true) (hn : n ≠ 0)
      (hw : rangeWraps a n = false) : Effect s (.sendDma t a n) (s.setTask t (.sendDma a n .a))
  | dmaLock {t : Nat} {a : Addr} {n : Count} (h : s.TaskIs t (.sendDma a n .a)) (hl : s.tx_lock = .free) :
      Effect s (.sendDma t a n) ({ s with tx_lock := .held t }.setTask t (.sendDma a n .c))
  | dmaProgram {t : Nat} {a : Addr} {n : Count} {s1 : State} (h : s.TaskIs t (.sendDma a n .c))
      (hp : s.programTx a n = some s1) : Effect s (.sendDma t a n) (s1.setTask t (.sendDma a n .d))
  | dmaTake {t : Nat} {a : Addr} {n : Count} (h : s.TaskIs t (.sendDma a n .d)) (hd : s.tx_done = true) :
      Effect s (.sendDma t a n) ({ s with tx_done := false }.setTask t (.sendDma a n .e))
  | dmaReturn {t : Nat} {a : Addr} {n : Count} (h : s.TaskIs t (.sendDma a n .e)) :
      Effect s (.sendDma t a n) (s.releaseTxLock.finish t .completed)
  | packetTooLong {t : Nat} {p : Packet} (h : s.TaskIs t .idle) (hm : s.prm.mtu < p.length) :
      Effect s (.sendPacket t p) (s.raiseFault (.assertMtu p.length))
  | packetNotReady {t : Nat} {p : Packet} (h : s.TaskIs t .idle) (hm : p.length ≤ s.prm.mtu) (hr : s.ready = false) :
      Effect s (.sendPacket t p) (s.raiseFault .sendNotReady)
  | packetEntry {t : Nat} {p : Packet} (h : s.TaskIs t .idle) (hp : p.wf = true) (hm : p.length ≤ s.prm.mtu) :
      Effect s (.sendPacket t p) (s.setTask t (.sendPacket p .m))
  | packetMutex {t : Nat} {p : Packet} (h : s.TaskIs t (.sendPacket p .m)) (hl : s.send_mutex = .free) :
      Effect s (.sendPacket t p) ({ s with send_mutex := .held t }.setTask t (.sendPacket p .s))
  | packetBuild {t : Nat} {p : Packet} (h : s.TaskIs t (.sendPacket p .s)) :
      Effect s (.sendPacket t p) (sendPacketBuild t p s)
  | serialize {t : Nat} {p : Packet} (h : s.TaskIs t (.sendPacket p .s)) (hl : s.send_mutex = .held t) :
      Effect s (.serialize p) (sendPacketBuild t p s)
  | packetDma0 {t : Nat} {p : Packet} (h : s.TaskIs t (.sendPacket p .dma0)) :
      Effect s (.sendPacket t p) (s.setTask t (.sendPacket p (if s.ready then .a else .z)))
  | packetLock {t : Nat} {p : Packet} (h : s.TaskIs t (.sendPacket p .a)) (hl : s.tx_lock = .free) :
      Effect s (.sendPacket t p) ({ s with tx_lock := .held t }.setTask t (.sendPacket p .c))
  | packetProgram {t : Nat} {p : Packet} {s1 : State} (h : s.TaskIs t (.sendPacket p .c))
      (hp : s.programTx s.prm.txfBase (frameSize p) = some s1) :
      Effect s (.sendPacket t p) (s1.setTask t (.sendPacket p .d))
  | packetTake {t : Nat} {p : Packet} (h : s.TaskIs t (.sendPacket p .d)) (hd : s.tx_done = true) :
      Effect s (.sendPacket t p) ({ s with tx_done := false }.setTask t (.sendPacket p .e))
  | packetUnlock {t : Nat} {p : Packet} (h : s.TaskIs t (.sendPacket p .e)) :
      Effect s (.sendPacket t p) (s.releaseTxLock.setTask t (.sendPacket p .z))
  | packetReturn {t : Nat} {p : Packet} (h : s.TaskIs t (.sendPacket p .z)) :
      Effect s (.sendPacket t p) (s.releaseSendMutex.finish t .ok)
  | recvAbsent {t n : Nat} (h : s.TaskIs t .idle) (hr : s.ready = false) :
      Effect s (.recvTimeout t n) (s.report t .notFound)
  | recvEntry {t n : Nat} (h : s.TaskIs t .idle) (hr : s.ready = true) :
      Effect s (.recvTimeout t n) (s.setTask t .recvTimeout)
  | recvTake {t n : Nat} {b : Byte} {rest : List Byte} (h : s.TaskIs t .recvTimeout) (hq : s.byteq = b :: rest) :
      Effect s (.recvTimeout t n) ({ s with byteq := rest }.finish t (.found b))
  | expire {t : Nat} (h : s.TaskIs t .recvTimeout) (hq : s.byteq = []) :
      Effect s (.timeoutExpire t) (s.finish t .notFound)
  | available {t n : Nat} (h : s.TaskIs t .idle) (ht : t = s.prm.framingTask) :
      Effect s (.getAvailable t n) ((s.drained n).report t (.available (s.availableBytes n)))
  | dispatch {p : Packet} (h : s.FramerIdle) (hp : p.wf = true) : Effect s (.dispatch p) (s.dispatched p)
  | rxne (hf : s.fault = none) (ha : s.armed = true) (hp : s.rxnePending = true) :
      Effect s .rxneIsr { s with
        byteq := if s.rxne then pushByteq s.byteq s.rdr else s.byteq
        rxne := false
        pe := false
        fe := false
        ne := false
        ore := false }
  | stageOverflow {c : RxCause} (hf : s.fault = none) (ho : s.prm.stageCap < s.stage.length + s.rxValid) :
      Effect s (.rxCompleteIsr c) (s.raiseFault (.rxStageOverflow s.stage.length s.rxValid))
  | handOff {c : RxCause} (hf : s.fault = none) (ha : s.armed = true) (hp : s.rxCompletePending c = true)
      (ho : s.stage.length + s.rxValid ≤ s.prm.stageCap) (hn : s.rxValid ≤ s.rx_buf.length) :
      Effect s (.rxCompleteIsr c) ((s.clearCause c).handOff (s.rx_buf.take s.rxValid))
  | txTc (hf : s.fault = none) (h1 : s.tx_tcif = true) (h2 : s.tx_tcie = true) :
      Effect s .txTcIsr { s with tx_tcif := false, tx_tcie := false, tx_done := true }
  | fcIsr (hf : s.fault = none) (hp : s.fc_pend = true) :
      Effect s .fcIsr (if s.pauseLevel then { s with fc_pend := false }.paused else { s with fc_pend := false }.resumed)
  | pause (hf : s.fault = none) : Effect s .pauseTx s.paused
  | resume (hf : s.fault = none) : Effect s .resumeTx s.resumed
  | beat (hf : s.fault = none) (h1 : s.tx_en = true) (h2 : s.txe = true) : Effect s .txBeat s.beat
  | offerOverrun {i : Instr} {b : Byte} (hf : s.fault = none) (hr : s.ready = true) (hi : i.dmaOffer s.prm = [b])
      (he : s.rx_en = false) : Effect s i (s.raiseFault (.rxDmaOverrun b))
  | rxIrq {b : Byte} {r : RxDraw} (hf : s.fault = none) (hr : s.ready = true) (hd : dmaSees s.prm.rxRoute r = false) :
      Effect s (.rxByte b r) (s.latchIf (irqSees s.prm.rxRoute r) b)
  | rxBoth {b : Byte} {r : RxDraw} (hf : s.fault = none) (hr : s.ready = true)
      (hd : dmaSees s.prm.rxRoute r = true) (he : s.rx_en = true) (hn : s.rxValid < s.rx_buf.length) :
      Effect s (.rxByte b r) ((s.latchIf (irqSees s.prm.rxRoute r) b).stored b)
  | errorFlag {k : LineError} {r : RxDraw} (hf : s.fault = none) (hr : s.ready = true) :
      Effect s (.rxError k none r) (s.setLineError k)
  | errorIrq {k : LineError} {b : Byte} {r : RxDraw} (hf : s.fault = none) (hr : s.ready = true)
      (hd : dmaSees s.prm.rxRoute r = false) :
      Effect s (.rxError k (some b) r) ((s.setLineError k).latchIf (irqSees s.prm.rxRoute r) b)
  | errorBoth {k : LineError} {b : Byte} {r : RxDraw} (hf : s.fault = none) (hr : s.ready = true)
      (hd : dmaSees s.prm.rxRoute r = true) (he : s.rx_en = true) (hn : s.rxValid < s.rx_buf.length) :
      Effect s (.rxError k (some b) r) (((s.setLineError k).latchIf (irqSees s.prm.rxRoute r) b).stored b)
  | rxIdle (hf : s.fault = none) (hr : s.ready = true) : Effect s .rxIdle { s with idle := true }
  | fcEdge {level : Bool} (hf : s.fault = none) (hl : level ≠ s.fc_level) :
      Effect s (.fcEdge level) { s with fc_level := level, fc_pend := true }
  | txEmpty (hf : s.fault = none) (hx : s.txe = false) : Effect s .txEmpty { s with txe := true }
  | feed {i : Instr} {bs : List Byte} {s1 : State} (hi : i.isFramer = true) (h : s.FramerIdle)
      (h1 : feedBytes bs s = .next s1) : Effect s i s1
  | poll {s1 : State} (h : s.FramerIdle) (h1 : feedBytes (s.availableBytes s.prm.pollMax) s.polled = .next s1) :
      Effect s .framerPoll s1

theorem rxPaths_next {s s0 s' : State} {b : Byte} {r : RxDraw} (h : rxPaths s s0 b r = .next s') :
    (dmaSees s.prm.rxRoute r = false ∧ s' = s0.latchIf (irqSees s.prm.rxRoute r) b) ∨
    (dmaSees s.prm.rxRoute r = true ∧ s.rx_en = true ∧ s0.rxValid < s0.rx_buf.length ∧
      s' = (s0.latchIf (irqSees s.prm.rxRoute r) b).stored b) ∨
    (dmaSees s.prm.rxRoute r = true ∧ s.rx_en = false ∧ s' = s.raiseFault (.rxDmaOverrun b)) := by
  simp only [rxPaths, latchIf_eq] at h
  by_cases hd : dmaSees s.prm.rxRoute r = true
  · rw [if_pos hd] at h
    by_cases he : s.rx_en = true
    · rw [if_pos he] at h
      split at h
      · rename_i h1
        obtain ⟨hn, rfl⟩ := rxBeat_some.mp h1
        cases h
        exact .inr (.inl ⟨hd, he, hn, rfl⟩)
      · cases h
    · rw [if_neg he] at h
      cases h
      exact .inr (.inr ⟨hd, by simpa using he, rfl⟩)
  · rw [if_neg hd] at h
    cases h
    exact .inl ⟨by simpa using hd, rfl⟩

/-- A phase of `SEND_DMA` that is taken. -/
theorem sendDmaPhase_effect {s s' : State} {t : Nat} {a : Addr} {n : Count} {phase : DmaPhase}
    (hts : s.TaskIs t (.sendDma a n phase)) (h : sendDmaPhase t a n phase s = .next s') :
    s' = s ∨ Effect s (.sendDma t a n) s' := by
  cases phase with
  | a =>
    rcases blockUntil_next h with rfl | ⟨s1, h1, rfl⟩
    · exact .inl rfl
    · obtain ⟨hl, rfl⟩ := acquireTxLock_some h1
      exact .inr (.dmaLock hts hl)
  | c =>
    rcases blockUntil_next h with rfl | ⟨s1, h1, rfl⟩
    · exact .inl rfl
    · exact .inr (.dmaProgram hts h1)
  | d =>
    rcases blockUntil_next h with rfl | ⟨s1, h1, rfl⟩
    · exact .inl rfl
    · obtain ⟨hd, rfl⟩ := takeTxDone_some h1
      exact .inr (.dmaTake hts hd)
  | e => cases h; exact .inr (.dmaReturn hts)

/-- A phase of `SEND_PACKET` that is taken. -/
theorem sendPacketPhase_effect {s s' : State} {t : Nat} {p : Packet} {phase : SendPhase}
    (hts : s.TaskIs t (.sendPacket p phase)) (h : sendPacketPhase t p phase s = .next s') :
    s' = s ∨ Effect s (.sendPacket t p) s' := by
  cases phase with
  | m =>
    rcases blockUntil_next h with rfl | ⟨s1, h1, rfl⟩
    · exact .inl rfl
    · obtain ⟨hl, rfl⟩ := acquireSendMutex_some h1
      exact .inr (.packetMutex hts hl)
  | s => cases h; exact .inr (.packetBuild hts)
  | dma0 => cases h; exact .inr (.packetDma0 hts)
  | a =>
    rcases blockUntil_next h with rfl | ⟨s1, h1, rfl⟩
    · exact .inl rfl
    · obtain ⟨hl, rfl⟩ := acquireTxLock_some h1
      exact .inr (.packetLock hts hl)
  | c =>
    rcases blockUntil_next h with rfl | ⟨s1, h1, rfl⟩
    · exact .inl rfl
    · exact .inr (.packetProgram hts h1)
  | d =>
    rcases blockUntil_next h with rfl | ⟨s1, h1, rfl⟩
    · exact .inl rfl
    · obtain ⟨hd, rfl⟩ := takeTxDone_some h1
      exact .inr (.packetTake hts hd)
  | e => cases h; exact .inr (.packetUnlock hts)
  | z => cases h; exact .inr (.packetReturn hts)

theorem sendPacketEntry_effect {s s' : State} {t : Nat} {p : Packet} (hts : s.TaskIs t .idle)
    (h : sendPacketEntry t p s = .next s') : Effect s (.sendPacket t p) s' := by
  unfold sendPacketEntry at h
  split at h
  · cases h
  · rename_i hp
    split at h
    · rename_i hm
      cases h
      exact .packetTooLong hts hm
    · rename_i hm
      have hm : p.length ≤ s.prm.mtu := by simpa using hm
      split at h
      · rename_i hr
        cases h
        exact .packetNotReady hts hm (by simp at hr; exact hr.1)
      · cases h
        exact .packetEntry hts (by simpa using hp) hm

theorem rxByte_effect {s s' : State} {b : Byte} {r : RxDraw} (hf : s.fault = none) (hr : s.ready = true)
    (h : exec (.rxByte b r) s = .next s') : Effect s (.rxByte b r) s' := by
  simp only [exec, execRxByte, receiverStep_run hf hr] at h
  rcases rxPaths_next h with ⟨hd, rfl⟩ | ⟨hd, he, hn, rfl⟩ | ⟨hd, he, rfl⟩
  · exact .rxIrq hf hr hd
  · exact .rxBoth hf hr hd he hn
  · exact .offerOverrun hf hr (by simp [Instr.dmaOffer, hd]) he

theorem rxError_effect {s s' : State} {k : LineError} {d : Option Byte} {r : RxDraw} (hf : s.fault = none)
    (hr : s.ready = true) (h : exec (.rxError k d r) s = .next s') : Effect s (.rxError k d r) s' := by
  simp only [exec, execRxError, receiverStep_run hf hr] at h
  cases d with
  | none => cases h; exact .errorFlag hf hr
  | some b =>
    rcases rxPaths_next h with ⟨hd, rfl⟩ | ⟨hd, he, hn, rfl⟩ | ⟨hd, he, rfl⟩
    · exact .errorIrq hf hr hd
    · exact .errorBoth hf hr hd he (by cases k <;> exact hn)
    · exact .offerOverrun hf hr (by simp [Instr.dmaOffer, hd]) he

/-- An offered byte always takes effect in a ready block without a fault: an operation that changes nothing there offers
nothing to either path. -/
theorem offers_nothing {i : Instr} {s : State} (hf : s.fault = none) (hr : s.ready = true) (h : exec i s = .next s) :
    Effect s i s ∨ (i.dmaOffer s.prm = [] ∧ i.irqOffer s.prm = []) := by
  cases i with
  | rxByte b r => exact .inl (rxByte_effect hf hr h)
  | rxError k d r => exact .inl (rxError_effect hf hr h)
  | _ => exact .inr ⟨rfl, rfl⟩

/-- A next state is the state itself, or comes from an effect. -/
theorem exec_effect {i : Instr} {s s' : State} (h : exec i s = .next s') : s' = s ∨ Effect s i s' := by
  by_cases hfr : i.isFramer = true
  · rcases framerInstr_next hfr h with h | ⟨hi, s0, bs, h0 | ⟨rfl, h0, h2⟩, h1⟩
    · exact .inl h
    · subst h0; exact .inr (.feed hfr hi h1)
    · subst h0 h2; exact .inr (.poll hi h1)
  cases i with
  | init t =>
    rcases taskStep_next h with h | ⟨ts, hts, h⟩
    · exact .inl h
    cases ts with
    | idle =>
      simp only at h
      split at h
      · cases h
      · rename_i hr
        cases h; exact .inr (.init hts (by simpa using hr))
    | sendLowRate | sendDma | sendPacket | recvTimeout => cases h; exact .inl rfl
  | sendLowRate t bytes =>
    rcases taskStep_next h with h | ⟨ts, hts, h⟩
    · exact .inl h
    cases ts with
    | idle =>
      simp only at h
      split at h
      · rename_i hr
        cases h
        simp at hr
        exact .inr (.lowRateEntry hts hr.1 hr.2)
      · cases h; exact .inl rfl
    | sendLowRate bs i =>
      simp only at h
      split at h
      · rename_i hb
        subst hb
        unfold lowRatePhase at h
        split at h
        · rename_i hx
          split at h
          · cases h
          · rename_i hb
            cases h; exact .inr (.lowRateByte hts hx hb)
        · cases h; exact .inl rfl
      · cases h; exact .inl rfl
    | sendDma | sendPacket | recvTimeout => cases h; exact .inl rfl
  | sendDma t a n =>
    rcases taskStep_next h with h | ⟨ts, hts, h⟩
    · exact .inl h
    cases ts with
    | idle =>
      simp only at h
      split at h
      · rename_i hr
        cases h; exact .inr (.dmaAbsent hts (by simpa using hr))
      · rename_i hr
        split at h
        · cases h
        · rename_i hn
          split at h
          · cases h
          · rename_i hw
            cases h; exact .inr (.dmaEntry hts (by simpa using hr) hn (by simpa using hw))
    | sendDma a' n' phase =>
      simp only at h
      split at h
      · rename_i hb
        obtain ⟨rfl, rfl⟩ := hb
        exact sendDmaPhase_effect hts h
      · cases h; exact .inl rfl
    | sendLowRate | sendPacket | recvTimeout => cases h; exact .inl rfl
  | recvTimeout t n =>
    rcases taskStep_next h with h | ⟨ts, hts, h⟩
    · exact .inl h
    cases ts with
    | idle =>
      simp only at h
      split at h
      · rename_i hr
        cases h; exact .inr (.recvEntry hts hr)
      · rename_i hr
        cases h; exact .inr (.recvAbsent hts (by simpa using hr))
    | recvTimeout =>
      simp only at h
      split at h
      · cases h; exact .inl rfl
      · rename_i hq
        cases h; exact .inr (.recvTake hts hq)
    | sendLowRate | sendDma | sendPacket => cases h; exact .inl rfl
  | getAvailable t n =>
    rcases taskStep_next h with h | ⟨ts, hts, h⟩
    · exact .inl h
    split at h
    · cases h
    · rename_i ht
      cases ts with
      | idle => cases h; exact .inr (.available hts (by simpa using ht))
      | sendLowRate | sendDma | sendPacket | recvTimeout => cases h; exact .inl rfl
  | sendPacket t p =>
    rcases taskStep_next h with h | ⟨ts, hts, h⟩
    · exact .inl h
    cases ts with
    | idle => exact .inr (sendPacketEntry_effect hts h)
    | sendPacket q phase =>
      simp only at h
      split at h
      · rename_i hq
        subst hq
        exact sendPacketPhase_effect hts h
      · cases h; exact .inl rfl
    | sendLowRate | sendDma | recvTimeout => cases h; exact .inl rfl
  | dispatch p =>
    rcases framerStep_next h with h | ⟨hi, h⟩
    · exact .inl h
    split at h
    · rename_i hp
      cases h; exact .inr (.dispatch hi hp)
    · cases h
  | rxneIsr =>
    rcases irqStep_next h with h | ⟨hf, ha, hp, h⟩
    · exact .inl h
    · cases h; exact .inr (.rxne hf ha hp)
  | rxCompleteIsr c =>
    rcases irqStep_next h with h | ⟨hf, ha, hp, h⟩
    · exact .inl h
    split at h
    · rename_i ho
      cases h; exact .inr (.stageOverflow hf ho)
    · rename_i ho
      split at h
      · rename_i h1
        obtain ⟨hn, rfl⟩ := readPrefix_some.mp h1
        cases h
        exact .inr (.handOff hf ha hp (by omega) hn)
      · cases h
  | txTcIsr =>
    rcases irqStep_next h with h | ⟨hf, -, hp, h⟩
    · exact .inl h
    · simp only [State.txTcPending, Bool.and_eq_true] at hp
      cases h; exact .inr (.txTc hf hp.1 hp.2)
  | fcIsr =>
    rcases irqStep_next h with h | ⟨hf, -, hp, h⟩
    · exact .inl h
    · cases h; exact .inr (.fcIsr hf hp)
  | pauseTx =>
    rcases liveStep_next h with h | ⟨hf, h⟩
    · exact .inl h
    · cases h; exact .inr (.pause hf)
  | resumeTx =>
    rcases liveStep_next h with h | ⟨hf, h⟩
    · exact .inl h
    · cases h; exact .inr (.resume hf)
  | txBeat =>
    rcases liveStep_next h with h | ⟨hf, h⟩
    · exact .inl h
    split at h
    · rename_i hb
      simp only [State.beatEnabled, Bool.and_eq_true] at hb
      cases h; exact .inr (.beat hf hb.1 hb.2)
    · cases h; exact .inl rfl
  | rxByte b r =>
    rcases receiverStep_next (h : receiverStep _ _ = _) with h' | ⟨hf, hr, -⟩
    · exact .inl h'
    · exact .inr (rxByte_effect hf hr h)
  | rxError k d r =>
    rcases receiverStep_next (h : receiverStep _ _ = _) with h' | ⟨hf, hr, -⟩
    · exact .inl h'
    · exact .inr (rxError_effect hf hr h)
  | rxIdle =>
    rcases receiverStep_next h with h | ⟨hf, hr, h⟩
    · exact .inl h
    · cases h; exact .inr (.rxIdle hf hr)
  | fcEdge level =>
    rcases liveStep_next h with h | ⟨hf, h⟩
    · exact .inl h
    split at h
    · cases h; exact .inl rfl
    · rename_i hl
      cases h; exact .inr (.fcEdge hf hl)
  | txEmpty =>
    rcases liveStep_next h with h | ⟨hf, h⟩
    · exact .inl h
    split at h
    · cases h; exact .inl rfl
    · rename_i hx
      cases h; exact .inr (.txEmpty hf (by simpa using hx))
  | timeoutExpire t =>
    rcases taskStep_next h with h | ⟨ts, hts, h⟩
    · exact .inl h
    cases ts with
    | recvTimeout =>
      simp only at h
      split at h
      · rename_i hq
        cases h; exact .inr (.expire hts hq)
      · cases h; exact .inl rfl
    | idle | sendLowRate | sendDma | sendPacket => cases h; exact .inl rfl
  | serialize p =>
    simp only [exec, execSerialize] at h
    split at h
    · cases h; exact .inl rfl
    · rename_i t hl
      rcases taskStep_next h with h | ⟨ts, hts, h⟩
      · exact .inl h
      split at h
      · rename_i hp
        subst hp
        cases h; exact .inr (.serialize hts hl)
      · cases h; exact .inl rfl
  | framerPoll | feed | feedWaitStart1Sync | feedWaitStart1Other | feedWaitStart2Sync | feedWaitStart2Other
  | feedWaitTypeAny | feedWaitLengthOversize | feedWaitLengthZero | feedWaitLengthData | feedWaitDataMore
  | feedWaitDataLast | feedWaitChecksum1Match | feedWaitChecksum1Mismatch | feedWaitChecksum2Match
  | feedWaitChecksum2Mismatch | frame => exact absurd rfl hfr

/-- A step takes the offered step from the front and runs an operation, stores a byte of the host, or does nothing. -/
theorem step_cases {s s' : State} (h : step s = .next s') :
    (s.nextInstr = none ∧ (s' = s ∨ ∃ e rest, s.sched = e :: rest ∧ s' = { s with sched := rest })) ∨
    (∃ i e rest, s.nextInstr = some i ∧ s.sched = e :: rest ∧ exec i { s with sched := rest } = .next s') ∨
    (∃ a v rest, s.nextInstr = none ∧ s.sched = .hostWrite a v :: rest ∧ s.fault = none ∧
      inFrameBuffer s.prm a = false ∧ s.task.any (fun ts => ts.sends a) = false ∧
      s' = { s with sched := rest, mem := s.mem.write a v }) := by
  unfold step runNext at h
  unfold State.nextInstr
  split at h
  · rename_i hs
    cases h
    exact .inl ⟨by rw [hs], .inl rfl⟩
  · rename_i e rest hs
    rw [hs]
    cases e with
    | op fmt word =>
      simp only [runEvent, runWord] at h
      split at h
      · rename_i i tail hd
        exact .inr (.inl ⟨i, _, rest, by simp [hd], rfl, h⟩)
      · cases h
    | proceed t =>
      simp only [runEvent, proceed] at h
      split at h
      · cases h
      · rename_i ts hts
        split at h
        · rename_i hi
          cases h
          exact .inl ⟨by simp [hts, hi], .inr ⟨_, rest, rfl, rfl⟩⟩
        · rename_i i hi
          exact .inr (.inl ⟨i, _, rest, by simp [hts, hi], rfl, h⟩)
    | hostWrite a v =>
      rcases liveStep_next h with rfl | ⟨hf, h⟩
      · exact .inl ⟨rfl, .inr ⟨_, rest, rfl, rfl⟩⟩
      · split at h
        · cases h
        · rename_i h1
          split at h
          · cases h
          · rename_i h2
            cases h
            exact .inr (.inr ⟨a, v, rest, rfl, rfl, hf, by simpa using h1, by simpa using h2, rfl⟩)

end Sys2Proof.Machine
end

