-- ==== Sys2Proof/Laws/PerInstr.lean ====
section
/-! SUPPORT. One lemma per constructor: the word of every operation begins with the bits its row of
spec/opcode_table.json fixes. -/

namespace Sys2Proof.Laws.TableMatch

/-- The bytes the table fixes at the front of a row's word: the OPID of an `OP` row, the input byte of a `FEED` row that
has a match, the two start bytes of a `FRAME` row; none for the other rows. -/
def fixedBytes (i : Instr) : List Byte :=
  match i with
  | .init _ => [0x01]
  | .sendLowRate _ _ => [0x02]
  | .sendDma _ _ _ => [0x03]
  | .recvTimeout _ _ => [0x04]
  | .getAvailable _ _ => [0x05]
  | .sendPacket _ _ => [0x06]
  | .framerPoll => [0x07]
  | .feed _ => [0x08]
  | .dispatch _ => [0x09]
  | .rxneIsr => [0x20]
  | .rxCompleteIsr _ => [0x21]
  | .txTcIsr => [0x22]
  | .fcIsr => [0x23]
  | .pauseTx => [0x24]
  | .resumeTx => [0x25]
  | .txBeat => [0x30]
  | .rxByte _ _ => [0x40]
  | .rxError _ _ _ => [0x41]
  | .rxIdle => [0x42]
  | .fcEdge _ => [0x43]
  | .txEmpty => [0x44]
  | .timeoutExpire _ => [0x45]
  | .feedWaitStart1Sync => [0xBC]
  | .feedWaitStart1Other b => [b]
  | .feedWaitStart2Sync => [0xCF]
  | .feedWaitStart2Other b => [b]
  | .feedWaitTypeAny b => [b]
  | .feedWaitLengthOversize b => [b]
  | .feedWaitLengthZero => [0x00]
  | .feedWaitLengthData b => [b]
  | .feedWaitDataMore b => [b]
  | .feedWaitDataLast b => [b]
  | .feedWaitChecksum1Match b => [b]
  | .feedWaitChecksum1Mismatch b => [b]
  | .feedWaitChecksum2Match b => [b]
  | .feedWaitChecksum2Mismatch b => [b]
  | .frame _ => [0xBC, 0xCF]
  | .serialize _ => [0xBC, 0xCF]

/-- The word begins with them. -/
def Statement (i : Instr) : Prop := ∃ rest, encode i = fixedBytes i ++ rest

theorem init (t : Nat) : Statement (.init t) := ⟨_, rfl⟩
theorem sendLowRate (t : Nat) (bytes : List Byte) : Statement (.sendLowRate t bytes) := ⟨_, rfl⟩
theorem sendDma (t : Nat) (addr : Addr) (size : Count) : Statement (.sendDma t addr size) := ⟨_, rfl⟩
theorem recvTimeout (t timeout : Nat) : Statement (.recvTimeout t timeout) := ⟨_, rfl⟩
theorem getAvailable (t max : Nat) : Statement (.getAvailable t max) := ⟨_, rfl⟩
theorem sendPacket (t : Nat) (p : Packet) : Statement (.sendPacket t p) := ⟨_, rfl⟩
theorem framerPoll : Statement .framerPoll := ⟨_, rfl⟩
theorem feed (b : Byte) : Statement (.feed b) := ⟨_, rfl⟩
theorem dispatch (p : Packet) : Statement (.dispatch p) := ⟨_, rfl⟩
theorem rxneIsr : Statement .rxneIsr := ⟨_, rfl⟩
theorem rxCompleteIsr (cause : RxCause) : Statement (.rxCompleteIsr cause) := ⟨_, rfl⟩
theorem txTcIsr : Statement .txTcIsr := ⟨_, rfl⟩
theorem fcIsr : Statement .fcIsr := ⟨_, rfl⟩
theorem pauseTx : Statement .pauseTx := ⟨_, rfl⟩
theorem resumeTx : Statement .resumeTx := ⟨_, rfl⟩
theorem txBeat : Statement .txBeat := ⟨_, rfl⟩
theorem rxByte (b : Byte) (r : RxDraw) : Statement (.rxByte b r) := ⟨_, rfl⟩
theorem rxError (kind : LineError) (d : Option Byte) (r : RxDraw) : Statement (.rxError kind d r) := ⟨_, rfl⟩
theorem rxIdle : Statement .rxIdle := ⟨_, rfl⟩
theorem fcEdge (level : Bool) : Statement (.fcEdge level) := ⟨_, rfl⟩
theorem txEmpty : Statement .txEmpty := ⟨_, rfl⟩
theorem timeoutExpire (t : Nat) : Statement (.timeoutExpire t) := ⟨_, rfl⟩
theorem feedWaitStart1Sync : Statement .feedWaitStart1Sync := ⟨_, rfl⟩
theorem feedWaitStart1Other (b : Byte) : Statement (.feedWaitStart1Other b) := ⟨_, rfl⟩
theorem feedWaitStart2Sync : Statement .feedWaitStart2Sync := ⟨_, rfl⟩
theorem feedWaitStart2Other (b : Byte) : Statement (.feedWaitStart2Other b) := ⟨_, rfl⟩
theorem feedWaitTypeAny (b : Byte) : Statement (.feedWaitTypeAny b) := ⟨_, rfl⟩
theorem feedWaitLengthOversize (b : Byte) : Statement (.feedWaitLengthOversize b) := ⟨_, rfl⟩
theorem feedWaitLengthZero : Statement .feedWaitLengthZero := ⟨_, rfl⟩
theorem feedWaitLengthData (b : Byte) : Statement (.feedWaitLengthData b) := ⟨_, rfl⟩
theorem feedWaitDataMore (b : Byte) : Statement (.feedWaitDataMore b) := ⟨_, rfl⟩
theorem feedWaitDataLast (b : Byte) : Statement (.feedWaitDataLast b) := ⟨_, rfl⟩
theorem feedWaitChecksum1Match (b : Byte) : Statement (.feedWaitChecksum1Match b) := ⟨_, rfl⟩
theorem feedWaitChecksum1Mismatch (b : Byte) : Statement (.feedWaitChecksum1Mismatch b) := ⟨_, rfl⟩
theorem feedWaitChecksum2Match (b : Byte) : Statement (.feedWaitChecksum2Match b) := ⟨_, rfl⟩
theorem feedWaitChecksum2Mismatch (b : Byte) : Statement (.feedWaitChecksum2Mismatch b) := ⟨_, rfl⟩
theorem frame (f : Frame) : Statement (.frame f) := ⟨_, rfl⟩
theorem serialize (p : Packet) : Statement (.serialize p) := ⟨_, rfl⟩

end Sys2Proof.Laws.TableMatch
end

