-- ==== Sys2Proof/Tests/Slice0.lean ====
section
/-! SUPPORT. The model's own tests: the ill-formed terms the checks refuse, the decoding of every operation from a word
written out by hand, one or two small steps per operation with the values of 95_test_vectors.md, and a witness for the
hypotheses of every statement. Words follow 30_encoding.md rules R40, R49; operand bytes are log entry 3's. -/

namespace Sys2Proof.Tests

open Sys2Proof.Machine

/-! ### Well-formedness -/

/-- A Packet whose data is shorter than its length. -/
def shortPacket : Packet := { type := 1, length := 2, data := [0xAA] }

theorem test_wf_initTask : (Instr.init (2 ^ 32)).wf = false := by decide
theorem test_wf_lowRateTask : (Instr.sendLowRate (2 ^ 32) [1]).wf = false := by decide
/-- The check of the byte count; a list of `2 ^ 32` bytes is not written out. -/
theorem test_wf_lowRateBytes (bytes : List Byte) (h : 2 ^ 32 ≤ bytes.length) : (Instr.sendLowRate 0 bytes).wf = false := by
  have : fitsU32 bytes.length = false := decide_eq_false (by omega)
  simp only [Instr.wf, this, Bool.and_false]
theorem test_wf_sendDmaTask : (Instr.sendDma (2 ^ 32) 0 1).wf = false := by decide
theorem test_wf_recvTask : (Instr.recvTimeout (2 ^ 32) 0).wf = false := by decide
theorem test_wf_recvTimeout : (Instr.recvTimeout 0 (2 ^ 32)).wf = false := by decide
theorem test_wf_availableTask : (Instr.getAvailable (2 ^ 32) 0).wf = false := by decide
theorem test_wf_availableMax : (Instr.getAvailable 0 (2 ^ 32)).wf = false := by decide
theorem test_wf_sendPacketTask : (Instr.sendPacket (2 ^ 32) { type := 1, length := 0, data := [] }).wf = false := by decide
theorem test_wf_sendPacket : (Instr.sendPacket 0 shortPacket).wf = false := by decide
theorem test_wf_dispatch : (Instr.dispatch shortPacket).wf = false := by decide
theorem test_wf_serialize : (Instr.serialize shortPacket).wf = false := by decide
theorem test_wf_frame : (Instr.frame { type := 1, length := 0, data := [7], cksum0 := 0, cksum1 := 0 }).wf = false := by
  decide
theorem test_wf_timeoutTask : (Instr.timeoutExpire (2 ^ 32)).wf = false := by decide
theorem test_wf_start1Other : (Instr.feedWaitStart1Other 0xBC).wf = false := by decide
theorem test_wf_start2Other : (Instr.feedWaitStart2Other 0xCF).wf = false := by decide
theorem test_wf_lengthData : (Instr.feedWaitLengthData 0).wf = false := by decide

/-! ### Decoding, one word per operation -/

/-- Whether a word is exactly the word of an operation. -/
def reads (fmt : Format) (w : List Byte) (i : Instr) : Bool := decide (decode fmt w = .ok (i, []))

theorem test_decode_init : reads .op [0x01, 1, 0, 0, 0] (.init 1) = true := by decide
theorem test_decode_sendLowRate :
    reads .op [0x02, 1, 0, 0, 0, 2, 0, 0, 0, 0x55, 0x66] (.sendLowRate 1 [0x55, 0x66]) = true := by decide
theorem test_decode_sendDma :
    reads .op [0x03, 1, 0, 0, 0, 0x03, 0x20, 0, 0, 0x08, 0, 0, 0] (.sendDma 1 0x2003 8) = true := by decide
theorem test_decode_recvTimeout : reads .op [0x04, 1, 0, 0, 0, 0xE8, 0x03, 0, 0] (.recvTimeout 1 1000) = true := by decide
theorem test_decode_getAvailable : reads .op [0x05, 0, 0, 0, 0, 8, 0, 0, 0] (.getAvailable 0 8) = true := by decide
theorem test_decode_sendPacket :
    reads .op [0x06, 1, 0, 0, 0, 0x01, 0x02, 0xAA, 0xBB]
      (.sendPacket 1 { type := 0x01, length := 0x02, data := [0xAA, 0xBB] }) = true := by decide
theorem test_decode_framerPoll : reads .op [0x07] .framerPoll = true := by decide
theorem test_decode_feed : reads .op [0x08, 0xBC] (.feed 0xBC) = true := by decide
theorem test_decode_dispatch :
    reads .op [0x09, 0x13, 0x01, 0x07] (.dispatch { type := 0x13, length := 0x01, data := [0x07] }) = true := by decide
theorem test_decode_rxneIsr : reads .op [0x20] .rxneIsr = true := by decide
theorem test_decode_rxCompleteTc : reads .op [0x21, 0] (.rxCompleteIsr .tc) = true := by decide
theorem test_decode_rxCompleteIdle : reads .op [0x21, 1] (.rxCompleteIsr .idle) = true := by decide
theorem test_decode_txTcIsr : reads .op [0x22] .txTcIsr = true := by decide
theorem test_decode_fcIsr : reads .op [0x23] .fcIsr = true := by decide
theorem test_decode_pauseTx : reads .op [0x24] .pauseTx = true := by decide
theorem test_decode_resumeTx : reads .op [0x25] .resumeTx = true := by decide
theorem test_decode_txBeat : reads .op [0x30] .txBeat = true := by decide
theorem test_decode_rxByte : reads .op [0x40, 0x7E, 2] (.rxByte 0x7E .both) = true := by decide
theorem test_decode_rxError : reads .op [0x41, 2, 1, 0x5A, 1] (.rxError .ne (some 0x5A) .irq) = true := by decide
theorem test_decode_rxErrorNoByte : reads .op [0x41, 1, 0, 0] (.rxError .fe none .dma) = true := by decide
theorem test_decode_rxIdle : reads .op [0x42] .rxIdle = true := by decide
theorem test_decode_fcEdge : reads .op [0x43, 1] (.fcEdge true) = true := by decide
theorem test_decode_txEmpty : reads .op [0x44] .txEmpty = true := by decide
theorem test_decode_timeoutExpire : reads .op [0x45, 1, 0, 0, 0] (.timeoutExpire 1) = true := by decide
theorem test_decode_start1Sync : reads .feed [0xBC, 0] .feedWaitStart1Sync = true := by decide
theorem test_decode_start1Other : reads .feed [0x55, 1] (.feedWaitStart1Other 0x55) = true := by decide
theorem test_decode_start2Sync : reads .feed [0xCF, 0] .feedWaitStart2Sync = true := by decide
theorem test_decode_start2Other : reads .feed [0xBC, 2] (.feedWaitStart2Other 0xBC) = true := by decide
theorem test_decode_typeAny : reads .feed [0x01, 3] (.feedWaitTypeAny 0x01) = true := by decide
theorem test_decode_lengthOversize : reads .feed [0x41, 4] (.feedWaitLengthOversize 0x41) = true := by decide
theorem test_decode_lengthZero : reads .feed [0x00, 0] .feedWaitLengthZero = true := by decide
theorem test_decode_lengthData : reads .feed [0x02, 5] (.feedWaitLengthData 0x02) = true := by decide
theorem test_decode_dataMore : reads .feed [0xAA, 6] (.feedWaitDataMore 0xAA) = true := by decide
theorem test_decode_dataLast : reads .feed [0xBB, 7] (.feedWaitDataLast 0xBB) = true := by decide
theorem test_decode_ck1Match : reads .feed [0x68, 8] (.feedWaitChecksum1Match 0x68) = true := by decide
theorem test_decode_ck1Mismatch : reads .feed [0x69, 9] (.feedWaitChecksum1Mismatch 0x69) = true := by decide
theorem test_decode_ck2Match : reads .feed [0x19, 10] (.feedWaitChecksum2Match 0x19) = true := by decide
theorem test_decode_ck2Mismatch : reads .feed [0x18, 11] (.feedWaitChecksum2Mismatch 0x18) = true := by decide
/-- Vector F7's first frame: `cksum1` is wrong, and it is a frame all the same (rule R46). -/
theorem test_decode_frame :
    reads .frameIn [0xBC, 0xCF, 0x01, 0x02, 0xAA, 0xBB, 0x68, 0x18]
      (.frame { type := 0x01, length := 0x02, data := [0xAA, 0xBB], cksum0 := 0x68, cksum1 := 0x18 }) = true := by decide
/-- Vector V3. -/
theorem test_decode_serialize :
    reads .frameOut [0xBC, 0xCF, 0xFF, 0x00, 0xFF, 0xFE] (.serialize { type := 0xFF, length := 0x00, data := [] }) = true := by
  decide

/-- Rule R49: "All other OPID values name no operation; the model refuses them". -/
theorem test_decode_unknownOpid : decode .op [0x0A] = .error (.unknownOpid 0x0A) := by decide
theorem test_decode_lastOpid : decode .op [0xFF, 0] = .error (.unknownOpid 0xFF) := by decide
theorem test_decode_truncated : decode .op [0x01, 0, 0] = .error .truncated := by decide
theorem test_decode_badCause : decode .op [0x21, 2] = .error (.badCause 2) := by decide
theorem test_decode_badRow : decode .feed [0x55, 0] = .error (.badFeedRow 0 0x55) := by decide
theorem test_decode_notAFrame : decode .frameIn [0xCF, 0xBC, 0, 0, 0, 0] = .error .notAFrame := by decide
theorem test_decode_badChecksum :
    decode .frameOut [0xBC, 0xCF, 0x01, 0x02, 0xAA, 0xBB, 0x68, 0x18] = .error .badChecksum := by decide
/-- No two operations share an OPID. -/
theorem test_opids_distinct : (opids.map Opid.code).Nodup := by decide

/-! ### Small states -/

/-- Small parameters: `MTU = 4`, `RXBUF_CAP = STAGE_CAP = 2`, `POLL_MAX = 1`, three tasks. -/
def tiny : Params :=
  { Params.pv with mtu := 4, rxbufCap := 2, stageCap := 2, pollMax := 1, ntask := 3 }

/-- Reset, with small parameters. -/
def base : State := State.resetWith tiny false

/-- After `INIT`. -/
def up : State :=
  { base with
    cfg := some { baud := 1000000, word_len := 8, parity := false, stop_bits := 1 }
    rx_remaining := 2
    rx_en := true
    armed := true
    ready := true }

/-- Vector V1's packet. -/
def pA : Packet := { type := 0x01, length := 0x02, data := [0xAA, 0xBB] }

/-- What a view of the next state shows, if there is one. -/
def after {α : Type} (o : Out) (f : State → α) : Option α :=
  match o with
  | .next s => some (f s)
  | _ => none

/-- The reason of a refusal, if there is one. -/
def refusal (o : Out) : Option Refusal :=
  match o with
  | .refused r => some r
  | _ => none

/-- `s` with task 1 in the state `ts`. -/
def withTask (s : State) (ts : TaskState) : State := { s with task := [.idle, ts, .idle] }

/-! ### Transmit path: vectors X1 to X4f, program P1 -/

/-- X1. -/
theorem test_init :
    after (exec (.init 1) { base with rx_tcif := true }) (fun s => s) = some up := by decide
/-- X4f. -/
theorem test_init_second : refusal (exec (.init 1) up) = some .secondInit := by decide
/-- X4e, the phase of the second and last byte. -/
theorem test_sendLowRate :
    after (exec (.sendLowRate 1 [0x55, 0x66]) (withTask { up with wire_tx := [0x55] } (.sendLowRate [0x55, 0x66] 1)))
      (fun s => (s.wire_tx, s.txe, s.task[1]?)) = some ([0x55, 0x66], false, some .idle) := by decide
/-- X4d. -/
theorem test_sendLowRate_before : after (exec (.sendLowRate 1 [0x55]) base) (fun s => s) = some base := by decide
/-- P3, phase C. -/
theorem test_sendDma :
    after (exec (.sendDma 1 0x2000 8) (withTask up (.sendDma 0x2000 8 .c)))
      (fun s => (s.tx_base, s.tx_size, s.tx_ptr, s.tx_count, s.tx_tcie, s.tx_en)) =
      some (0x2000, 8, 0x2000, 8, true, true) := by decide
/-- X4f. -/
theorem test_sendDma_wraps : refusal (exec (.sendDma 1 0xFFFFFFFE 3) up) = some .wrappingTransfer := by decide
/-- X2. -/
theorem test_txBeat :
    after (exec .txBeat { up with tx_en := true, tx_ptr := 0x2001, tx_count := 2, mem := [(0x2001, 0x22)] })
      (fun s => (s.wire_tx, s.txe, s.tx_ptr, s.tx_count, s.tx_en, s.tx_tcif)) =
      some ([0x22], false, 0x2002, 1, true, false) := by decide
/-- X3. -/
theorem test_txBeat_last :
    after (exec .txBeat { up with tx_en := true, tx_ptr := 0x2002, tx_count := 1, mem := [(0x2002, 0x33)] })
      (fun s => (s.wire_tx, s.txe, s.tx_ptr, s.tx_count, s.tx_en, s.tx_tcif)) =
      some ([0x33], false, 0x2003, 0, false, true) := by decide
theorem test_txEmpty : after (exec .txEmpty { up with txe := false }) (fun s => s.txe) = some true := by decide
/-- X4. -/
theorem test_txTcIsr :
    after (exec .txTcIsr { up with tx_tcif := true, tx_tcie := true }) (fun s => (s.tx_tcif, s.tx_tcie, s.tx_done)) =
      some (false, false, true) := by decide

/-! ### Flow control: vectors X5 to X12 -/

/-- X8's start. -/
def midway : State :=
  { up with tx_en := true, tx_tcie := true, tx_base := 0x2000, tx_size := 8, tx_ptr := 0x2003, tx_count := 5 }

/-- X12: the edge is latched before `INIT`. -/
theorem test_fcEdge : after (exec (.fcEdge true) base) (fun s => (s.fc_level, s.fc_pend)) = some (true, true) := by decide
theorem test_fcEdge_noChange : after (exec (.fcEdge false) base) (fun s => s) = some base := by decide
/-- X8. -/
theorem test_fcIsr_pauses :
    after (exec .fcIsr { midway with fc_level := true, fc_pend := true })
      (fun s => (s.fc_pend, s.tx_en, s.is_paused, s.initial_count, s.remaining_count)) =
      some (false, false, true, 8, 5) := by decide
/-- X6: the resume of a transfer that is not paused changes nothing. -/
theorem test_fcIsr_resumes : after (exec .fcIsr { midway with fc_pend := true }) (fun s => s) = some midway := by decide
/-- X7. -/
theorem test_pauseTx_idle : after (exec .pauseTx up) (fun s => s) = some up := by decide
/-- X8. -/
theorem test_pauseTx :
    after (exec .pauseTx midway) (fun s => (s.tx_en, s.is_paused, s.initial_count, s.remaining_count, s.tx_count)) =
      some (false, true, 8, 5, 5) := by decide
/-- X9. -/
theorem test_resumeTx :
    after (exec .resumeTx { midway with tx_en := false, is_paused := true, initial_count := 8, remaining_count := 5,
                                        tx_count := 0, tx_ptr := 0 })
      (fun s => (s.tx_count, s.tx_ptr, s.tx_tcie, s.tx_en, s.is_paused)) = some (5, 0x2003, true, true, false) := by decide
/-- X6. -/
theorem test_resumeTx_notPaused : after (exec .resumeTx midway) (fun s => s) = some midway := by decide

/-! ### Receive paths: vectors Y1 to Y20 -/

/-- Y8, on a receiver that has read its data register. -/
theorem test_rxByte :
    after (exec (.rxByte 0x02 .both) { up with rx_remaining := 1, rx_buf := [0x01, 0] })
      (fun s => (s.rdr, s.rxne, s.rx_buf, s.rx_remaining, s.rx_en, s.rx_tcif)) =
      some (0x02, true, [0x01, 0x02], 0, false, true) := by decide
/-- Y9: the fault leaves the byte-interrupt path alone (rule R106). -/
theorem test_rxByte_overrun :
    after (exec (.rxByte 0x03 .both) { up with rx_remaining := 0, rx_en := false })
      (fun s => (s.fault, s.rxne, s.rdr)) = some (some (.rxDmaOverrun 0x03), false, 0) := by decide
/-- Y7. -/
theorem test_rxError :
    after (exec (.rxError .ne (some 0x5A) .both) up) (fun s => (s.ne, s.rdr, s.rx_buf, s.rx_remaining)) =
      some (true, 0x5A, [0x5A, 0], 1) := by decide
/-- Y6. -/
theorem test_rxError_noByte :
    after (exec (.rxError .fe none .both) up) (fun s => (s.fe, s.pe, s.rxne, s.rx_remaining)) =
      some (true, false, false, 2) := by decide
/-- Y11. -/
theorem test_rxIdle : after (exec .rxIdle up) (fun s => s.idle) = some true := by decide
/-- Y5. -/
theorem test_rxIdle_before : after (exec .rxIdle base) (fun s => s) = some base := by decide
/-- Y3. -/
theorem test_rxneIsr :
    after (exec .rxneIsr { up with rxne := true, ore := true, rdr := 0xBC }) (fun s => (s.byteq, s.rxne, s.ore)) =
      some ([0xBC], false, false) := by decide
/-- Y6: an error without a byte is only cleared. -/
theorem test_rxneIsr_error :
    after (exec .rxneIsr { up with fe := true, rdr := 0xBC }) (fun s => (s.byteq, s.fe)) = some ([], false) := by decide
/-- Y10. -/
theorem test_rxCompleteTc :
    after (exec (.rxCompleteIsr .tc) { up with rx_buf := [0x01, 0x02], rx_remaining := 0, rx_en := false, rx_tcif := true })
      (fun s => (s.stage, s.rx_buf, s.rx_remaining, s.rx_tcif, s.diag_log)) =
      some ([0x01, 0x02], [0, 0], 2, false, [.rxCheck 2]) := by decide
/-- Y20's first service, with `RXBUF_CAP = 2`. -/
theorem test_rxCompleteIdle :
    after (exec (.rxCompleteIsr .idle)
        { up with rx_buf := [0x01, 0x02], rx_remaining := 0, rx_en := false, rx_tcif := true, idle := true })
      (fun s => (s.stage, s.idle, s.rx_tcif, s.rx_remaining)) = some ([0x01, 0x02], false, true, 2) := by decide
/-- Y16. -/
theorem test_recvTimeout :
    after (exec (.recvTimeout 1 1000) (withTask { up with byteq := [0x41, 0x42] } .recvTimeout))
      (fun s => (s.byteq, s.ret)) = some ([0x42], [(1, .found 0x41)]) := by decide
/-- Y19. -/
theorem test_recvTimeout_before :
    after (exec (.recvTimeout 1 1000) base) (fun s => (s.task[1]?, s.ret)) = some (some .idle, [(1, .notFound)]) := by decide
/-- Y17. -/
theorem test_timeoutExpire :
    after (exec (.timeoutExpire 1) (withTask up .recvTimeout)) (fun s => (s.task[1]?, s.ret)) =
      some (some .idle, [(1, .notFound)]) := by decide
/-- Y18. -/
theorem test_timeoutExpire_late :
    after (exec (.timeoutExpire 1) (withTask { up with byteq := [0x41] } .recvTimeout)) (fun s => (s.task[1]?, s.ret)) =
      some (some .recvTimeout, []) := by decide
/-- Y13, the first call. -/
theorem test_getAvailable :
    after (exec (.getAvailable 0 5) { up with rx_done := true, stage := [0xBC, 0xCF, 0x01, 0x02, 0xAA, 0xBB, 0x68, 0x19] })
      (fun s => (s.ret, s.stage, s.rx_done)) =
      some ([(0, .available [0xBC, 0xCF, 0x01, 0x02, 0xAA])], [0xBB, 0x68, 0x19], true) := by decide
/-- Y12. -/
theorem test_getAvailable_empty :
    after (exec (.getAvailable 0 8) { up with rx_done := true }) (fun s => (s.ret, s.rx_done)) =
      some ([(0, .available [])], false) := by decide

/-! ### Framer: the register detail of F1, and F2, F4, F6, F7 -/

/-- The framer in a state, with `f_type = 01`, `f_length = 02` and the sums of F1 after the length. -/
def framing (x : FramerState) : State := { up with fs := x, f_type := 0x01, f_length := 0x02, f_ck0 := 0x03, f_ck1 := 0x04 }

/-- F1 after `AA`. -/
theorem test_feed :
    after (exec (.feed 0xAA) (framing .waitData)) (fun s => (s.fs, s.f_data, s.f_idx, s.f_ck0, s.f_ck1)) =
      some (.waitData, [0xAA, 0, 0, 0], 1, 0xAD, 0xB1) := by decide
/-- F3: the second `BC` is not taken as a start byte. -/
theorem test_feed_secondStart : after (exec (.feed 0xBC) (framing .waitStart2)) (fun s => s.fs) = some .waitStart1 := by
  decide
theorem test_start1Sync : after (exec .feedWaitStart1Sync up) (fun s => s.fs) = some .waitStart2 := by decide
theorem test_start1Other : after (exec (.feedWaitStart1Other 0x55) up) (fun s => s) = some up := by decide
theorem test_start2Sync : after (exec .feedWaitStart2Sync (framing .waitStart2)) (fun s => s.fs) = some .waitType := by
  decide
theorem test_start2Other :
    after (exec (.feedWaitStart2Other 0xBC) (framing .waitStart2)) (fun s => s.fs) = some .waitStart1 := by decide
/-- F1 after `01`. -/
theorem test_typeAny :
    after (exec (.feedWaitTypeAny 0x01) { up with fs := .waitType }) (fun s => (s.fs, s.f_type, s.f_ck0, s.f_ck1)) =
      some (.waitLength, 0x01, 0x01, 0x01) := by decide
/-- F14: `length = 5 = MTU + 1`; the byte is not folded. -/
theorem test_lengthOversize :
    after (exec (.feedWaitLengthOversize 0x05) (framing .waitLength)) (fun s => (s.fs, s.f_ck0, s.f_ck1)) =
      some (.waitStart1, 0x03, 0x04) := by decide
/-- F2 after `FF 00`. -/
theorem test_lengthZero :
    after (exec .feedWaitLengthZero { up with fs := .waitLength, f_type := 0xFF, f_ck0 := 0xFF, f_ck1 := 0xFF })
      (fun s => (s.fs, s.f_length, s.f_ck0, s.f_ck1)) = some (.waitChecksum1, 0, 0xFF, 0xFE) := by decide
/-- F1 after `02`; F13's `length = MTU` is accepted too. -/
theorem test_lengthData :
    after (exec (.feedWaitLengthData 0x02) { up with fs := .waitLength, f_type := 0x01, f_ck0 := 0x01, f_ck1 := 0x01 })
      (fun s => (s.fs, s.f_length, s.f_idx, s.f_ck0, s.f_ck1)) = some (.waitData, 0x02, 0, 0x03, 0x04) := by decide
theorem test_lengthData_mtu :
    after (exec (.feedWaitLengthData 0x04) (framing .waitLength)) (fun s => s.fs) = some .waitData := by decide
/-- F1 after `AA`. -/
theorem test_dataMore :
    after (exec (.feedWaitDataMore 0xAA) (framing .waitData)) (fun s => (s.fs, s.f_idx, s.f_ck0, s.f_ck1)) =
      some (.waitData, 1, 0xAD, 0xB1) := by decide
/-- F1 after `BB`. -/
theorem test_dataLast :
    after (exec (.feedWaitDataLast 0xBB)
        { framing .waitData with f_data := [0xAA, 0, 0, 0], f_idx := 1, f_ck0 := 0xAD, f_ck1 := 0xB1 })
      (fun s => (s.fs, s.f_data, s.f_idx, s.f_ck0, s.f_ck1)) =
      some (.waitChecksum1, [0xAA, 0xBB, 0, 0], 2, 0x68, 0x19) := by decide

/-- F1 after `BB`, or after `68` for `waitChecksum2`. -/
def checking (x : FramerState) : State :=
  { framing x with f_data := [0xAA, 0xBB, 0, 0], f_idx := 2, f_ck0 := 0x68, f_ck1 := 0x19 }

theorem test_ck1Match :
    after (exec (.feedWaitChecksum1Match 0x68) (checking .waitChecksum1)) (fun s => s.fs) = some .waitChecksum2 := by decide
/-- F6. -/
theorem test_ck1Mismatch :
    after (exec (.feedWaitChecksum1Mismatch 0x69) (checking .waitChecksum1)) (fun s => (s.fs, s.dispatch_log)) =
      some (.waitStart1, []) := by decide
theorem test_ck2Match :
    after (exec (.feedWaitChecksum2Match 0x19) (checking .waitChecksum2)) (fun s => (s.fs, s.dispatch_log)) =
      some (.waitStart1, [(.radio, pA)]) := by decide
/-- F7. -/
theorem test_ck2Mismatch :
    after (exec (.feedWaitChecksum2Mismatch 0x18) (checking .waitChecksum2)) (fun s => (s.fs, s.dispatch_log)) =
      some (.waitStart1, []) := by decide
/-- F1. -/
theorem test_frame :
    after (exec (.frame { type := 0x01, length := 0x02, data := [0xAA, 0xBB], cksum0 := 0x68, cksum1 := 0x19 }) up)
      (fun s => (s.fs, s.dispatch_log)) = some (.waitStart1, [(.radio, pA)]) := by decide
/-- F6. -/
theorem test_frame_corrupted :
    after (exec (.frame { type := 0x01, length := 0x02, data := [0xAA, 0xBB], cksum0 := 0x69, cksum1 := 0x19 }) up)
      (fun s => (s.fs, s.dispatch_log)) = some (.waitStart1, []) := by decide
/-- P2's first poll in small: `POLL_MAX = 1` byte is read and fed. -/
theorem test_framerPoll :
    after (exec .framerPoll { up with rx_done := true, stage := [0xBC, 0xCF] })
      (fun s => (s.fs, s.stage, s.rx_done, s.ret)) =
      some (.waitStart2, [0xCF], true, [(0, .available [0xBC])]) := by decide

/-! ### Dispatch, serializer and faults: vectors G3v, G5v, V1, Z1 -/

/-- G3v. -/
theorem test_dispatch :
    after (exec (.dispatch { type := 0x13, length := 0, data := [] }) up) (fun s => (s.dispatch_log, s.diag_log)) =
      some ([(.pm, { type := 0x13, length := 0, data := [] })], []) := by decide
/-- G5v. -/
theorem test_dispatch_unknown :
    after (exec (.dispatch { type := 0xF3, length := 0, data := [] }) up) (fun s => (s.dispatch_log, s.diag_log)) =
      some ([], [.unknownGroup { type := 0xF3, length := 0, data := [] }]) := by decide
/-- V1 and V5: the sums wrap. -/
theorem test_checksum :
    checksum 0x01 0x02 [0xAA, 0xBB] = (0x68, 0x19) ∧ checksum 0x20 0x04 [0xFF, 0xFF, 0xFF, 0xFF] = (0x20, 0xCA) := by decide
/-- V1, in P1's phase S. -/
theorem test_serialize :
    after (exec (.serialize pA) (withTask { up with send_mutex := .held 1 } (.sendPacket pA .s)))
      (fun s => s.mem.slice 0x1000 8) = some [0xBC, 0xCF, 0x01, 0x02, 0xAA, 0xBB, 0x68, 0x19] := by decide
/-- P1, phase C. -/
theorem test_sendPacket :
    after (exec (.sendPacket 1 pA) (withTask up (.sendPacket pA .c)))
      (fun s => (s.tx_base, s.tx_ptr, s.tx_size, s.tx_count, s.tx_en)) = some (0x1000, 0x1000, 8, 8, true) := by decide
/-- Z3: the length check comes before the ready check. -/
theorem test_sendPacket_long :
    after (exec (.sendPacket 1 { type := 0x01, length := 5, data := [1, 2, 3, 4, 5] }) base) (fun s => s.fault) =
      some (some (.assertMtu 5)) := by decide

/-! ### Fetch -/

/-- The host's placing: the word runs as the next step, and nothing is left offered. -/
theorem test_step_placedWord : step (State.reset.withFetchWord 8 0x43) = exec (.fcEdge false) State.reset := by rfl
theorem test_step_hostWrite :
    after (step { up with sched := [.hostWrite 0x2000 0x10] }) (fun s => (s.mem, s.sched)) = some ([(0x2000, 0x10)], []) := by
  decide

/-! ### Witnesses: states and operands that meet the hypotheses of the statements -/

/-- A transfer of two bytes at `0x2000`, its sender in phase D, a beat offered next. -/
def sending : State :=
  { withTask up (.sendDma 0x2000 2 .d) with
    tx_en := true
    tx_tcie := true
    tx_base := 0x2000
    tx_size := 2
    tx_ptr := 0x2000
    tx_count := 2
    tx_lock := .held 1
    mem := [(0x2000, 0x10), (0x2001, 0x11)]
    sched := [.op .op [0x30]] }

/-- The same transfer paused after its first byte, the edge that resumes it pending. -/
def pausedTransfer : State :=
  { sending with
    tx_en := false
    is_paused := true
    tx_ptr := 0x2001
    tx_count := 1
    initial_count := 2
    remaining_count := 1
    fc_pend := true
    wire_tx := [0x10]
    sched := [.op .op [0x23]] }

/-- The packet of vector V3. -/
def pB : Packet := { type := 0xFF, length := 0x00, data := [] }

/-- The sender of `pB` after its last beat has been signalled, its next phase offered. -/
def sentPacket : State :=
  { withTask up (.sendPacket pB .d) with
    tx_done := true
    tx_base := 0x1000
    tx_size := 6
    tx_ptr := 0x1006
    tx_lock := .held 1
    send_mutex := .held 1
    mem := [(0x1000, 0xBC), (0x1001, 0xCF), (0x1002, 0xFF), (0x1004, 0xFF), (0x1005, 0xFE)]
    wire_tx := [0xBC, 0xCF, 0xFF, 0x00, 0xFF, 0xFE]
    sched := [.proceed 1] }

/-- A received byte in the data register and in `rx_buf`, one byte in the stage, another byte offered. -/
def receiving : State :=
  { up with
    rdr := 0x01
    rxne := true
    rx_buf := [0x01, 0]
    rx_remaining := 1
    stage := [0x07]
    sched := [.op .op [0x40, 0x02, 0]]
    prm := { tiny with rxRoute := .any } }

theorem sending_inv : sending.Inv :=
  ⟨by decide, by decide, by decide, by decide, by decide, by decide, by decide, by decide, by decide⟩
theorem pausedTransfer_inv : pausedTransfer.Inv :=
  ⟨by decide, by decide, by decide, by decide, by decide, by decide, by decide, by decide, by decide⟩
theorem sentPacket_inv : sentPacket.Inv :=
  ⟨by decide, by decide, by decide, by decide, by decide, by decide, by decide, by decide, by decide⟩
theorem receiving_inv : receiving.Inv :=
  ⟨by decide, by decide, by decide, by decide, by decide, by decide, by decide, by decide, by decide⟩
theorem up_inv : up.Inv :=
  ⟨by decide, by decide, by decide, by decide, by decide, by decide, by decide, by decide, by decide⟩

theorem witness_InvariantsHoldAtReset : tiny.Valid ∧ Params.pv.Valid := by decide

theorem witness_InitConfiguresAndArms :
    (base.TaskIs 2 .idle ∧ base.ready = false) ∧ (up.TaskIs 2 .idle ∧ up.ready = true) ∧
    ((withTask up .recvTimeout).TaskIs 1 .recvTimeout ∧ TaskState.recvTimeout ≠ .idle) := by decide

theorem witness_LowRateSendsByteByByte :
    (base.TaskIs 1 .idle ∧ base.ready = false) ∧ (up.TaskIs 1 .idle ∧ ([] : List Byte) = []) ∧
    (up.TaskIs 1 .idle ∧ up.ready = true ∧ ([0x55] : List Byte) ≠ []) ∧
    (0 < [0x55, 0x66].length ∧ (withTask up (.sendLowRate [0x55, 0x66] 0)).TaskIs 1 (.sendLowRate [0x55, 0x66] 0) ∧
      up.txe = true) ∧
    (1 < [0x55, 0x66].length ∧ (withTask up (.sendLowRate [0x55, 0x66] 1)).TaskIs 1 (.sendLowRate [0x55, 0x66] 1)) ∧
    (let s := withTask { up with txe := false } (.sendLowRate [0x55] 0)
     s.TaskIs 1 (.sendLowRate [0x55] 0) ∧ s.txe = false) := by decide

theorem witness_SendDmaRunsItsPhases :
    (base.TaskIs 1 .idle ∧ base.ready = false) ∧ (up.TaskIs 1 .idle ∧ up.ready = true ∧ (0 : Count) = 0) ∧
    ((1 : Count) ≠ 0 ∧ 2 ^ 32 < (0xFFFFFFFF : Addr).toNat + (2 : Count).toNat) ∧
    ((1 : Count) ≠ 0 ∧ (0xFFFFFFFF : Addr).toNat + (1 : Count).toNat ≤ 2 ^ 32) ∧
    (let s := withTask up (.sendDma 0x2000 1 .a); s.TaskIs 1 (.sendDma 0x2000 1 .a) ∧ s.tx_lock = .free) ∧
    (let s := withTask { up with tx_lock := .held 2 } (.sendDma 0x2000 1 .a)
     s.TaskIs 1 (.sendDma 0x2000 1 .a) ∧ s.tx_lock ≠ .free) ∧
    (let s := withTask up (.sendDma 0x2000 1 .c)
     s.TaskIs 1 (.sendDma 0x2000 1 .c) ∧ s.tx_en = false ∧ s.is_paused = false) ∧
    (let s := withTask { up with is_paused := true } (.sendDma 0x2000 1 .c)
     s.TaskIs 1 (.sendDma 0x2000 1 .c) ∧ (s.tx_en = true ∨ s.is_paused = true)) ∧
    (let s := withTask { up with tx_done := true } (.sendDma 0x2000 1 .d)
     s.TaskIs 1 (.sendDma 0x2000 1 .d) ∧ s.tx_done = true) ∧
    (sending.TaskIs 1 (.sendDma 0x2000 2 .d) ∧ sending.tx_done = false) ∧
    (withTask up (.sendDma 0x2000 1 .e)).TaskIs 1 (.sendDma 0x2000 1 .e) := by decide

theorem witness_BeatSendsTheByteAtTxPtr :
    (sending.fault = none ∧ sending.tx_en = true ∧ sending.txe = true ∧ sending.tx_count ≠ 1) ∧
    (let s := { sending with tx_count := 1, tx_ptr := 0x2001 }
     s.fault = none ∧ s.tx_en = true ∧ s.txe = true ∧ s.tx_count = 1) ∧
    (up.tx_en = false ∨ up.txe = false) := by decide

theorem witness_TransmitterEmptiesAndCompletes :
    (let s := { up with txe := false }; s.fault = none ∧ s.txe = false) ∧ up.txe = true ∧
    (let s := { up with tx_tcif := true, tx_tcie := true }
     s.fault = none ∧ s.armed = true ∧ s.tx_tcif = true ∧ s.tx_tcie = true) ∧
    (sending.armed = false ∨ sending.tx_tcif = false ∨ sending.tx_tcie = false) := by decide

theorem witness_BeatsSendTheBufferExactlyOnce :
    sending.Inv ∧ (∃ ts ∈ sending.task, ts.awaitsTx = true) ∧ sending.SentAfter [] ∧
    (sending.nextInstr = some .txBeat ∧ Instr.txBeat.isLowRate = false) ∧
    after (step sending) (fun s => s.mem.slice 0x2000 2) = some (sending.mem.slice 0x2000 2) :=
  ⟨sending_inv, by decide, by decide, by decide, by decide⟩

/-- The hypotheses hold while the transfer is paused, too. -/
theorem witness_BeatsSendTheBufferExactlyOnce_paused :
    pausedTransfer.Inv ∧ (∃ ts ∈ pausedTransfer.task, ts.awaitsTx = true) ∧ pausedTransfer.SentAfter [] ∧
    pausedTransfer.nextInstr = some .fcIsr ∧
    after (step pausedTransfer) (fun s => s.mem) = some pausedTransfer.mem :=
  ⟨pausedTransfer_inv, by decide, by decide, by decide, by decide⟩

theorem witness_CompletedSendPutsItsFrameOnTheWire :
    sentPacket.Inv ∧ sentPacket.FramesBuilt ∧ sentPacket.task[1]? = some (.sendPacket pB .d) ∧ sentPacket.SentAfter [] ∧
    sentPacket.tx_done = true := ⟨sentPacket_inv, by decide, by decide, by decide, rfl⟩

theorem witness_EdgeIsServicedByItsHook :
    (up.fault = none ∧ true ≠ up.fc_level) ∧ false = up.fc_level ∧
    (let s := { sending with fc_pend := true, fc_level := true }
     s.fault = none ∧ s.armed = true ∧ s.fc_pend = true ∧ s.fc_level = s.prm.fcPauseLevel) ∧
    (pausedTransfer.fault = none ∧ pausedTransfer.armed = true ∧ pausedTransfer.fc_pend = true ∧
      pausedTransfer.fc_level ≠ pausedTransfer.prm.fcPauseLevel) ∧
    (base.armed = false ∨ base.fc_pend = false) := by decide

theorem witness_PauseAndResumeSaveAndRestore :
    (sending.fault = none ∧ sending.tx_en = true ∧ sending.is_paused = false) ∧
    (pausedTransfer.fault = none ∧ pausedTransfer.tx_en = false ∧ pausedTransfer.is_paused = true) := by decide

theorem witness_ResumeUndoesPause : sending.Inv ∧ sending.fault = none ∧ sending.tx_en = true :=
  ⟨sending_inv, rfl, rfl⟩

theorem witness_PausedTransferStandsStill : pausedTransfer.Inv ∧ pausedTransfer.is_paused = true :=
  ⟨pausedTransfer_inv, rfl⟩

theorem witness_ReceivedByteGoesDownItsPaths :
    (base.fault = none ∧ base.ready = false) ∧
    (receiving.fault = none ∧ receiving.ready = true ∧ irqSees receiving.prm.rxRoute .irq = true ∧
      dmaSees receiving.prm.rxRoute .irq = false) ∧
    (irqSees receiving.prm.rxRoute .both = true ∧ dmaSees receiving.prm.rxRoute .both = true ∧ receiving.rx_en = true ∧
      receiving.rx_remaining = 1 ∧ receiving.ReceiveOk) ∧
    (irqSees receiving.prm.rxRoute .dma = false ∧ dmaSees receiving.prm.rxRoute .dma = true) ∧
    (let s := { up with rx_remaining := 0, rx_en := false }
     s.fault = none ∧ s.ready = true ∧ dmaSees s.prm.rxRoute .dma = true ∧ s.rx_en = false) := by decide

theorem witness_LineErrorSetsItsFlag :
    (base.fault = none ∧ base.ready = false) ∧ (up.fault = none ∧ up.ready = true) ∧
    after (exec (.rxByte 0x5A .both) up) (fun s => s.fault) = some none ∧
    after (exec (.rxByte 0x5A .both) { up with rx_remaining := 0, rx_en := false }) (fun s => s.fault.isSome) =
      some true := by decide

theorem witness_IdleLineAndByteInterrupt :
    (up.fault = none ∧ up.ready = true) ∧ base.ready = false ∧
    (receiving.fault = none ∧ receiving.armed = true ∧ receiving.rxne = true ∧ receiving.byteq.length < 1024) ∧
    (let s := { receiving with byteq := List.replicate 1024 0 }
     s.rxne = true ∧ ¬ s.byteq.length < 1024) ∧
    (up.rxne = false ∧ up.pe = false ∧ up.fe = false ∧ up.ne = false ∧ up.ore = false) :=
  ⟨by decide, rfl, by decide,
   ⟨rfl, by show ¬ (List.replicate 1024 (0 : Byte)).length < 1024; rw [List.length_replicate]; decide⟩, by decide⟩

/-- The stage exactly full after the hand-off, one byte too many, no byte at all, and a cause that is not pending. -/
theorem witness_ReceiveCompletionHandsOff :
    (let s := { receiving with idle := true }
     s.ReceiveOk ∧ s.fault = none ∧ s.armed = true ∧ s.idle = true ∧ s.stage.length + 1 = s.prm.stageCap) ∧
    (let s := { up with rx_remaining := 0, rx_en := false, rx_tcif := true }
     s.ReceiveOk ∧ s.fault = none ∧ s.armed = true ∧ s.rx_tcif = true ∧ s.stage.length + 2 ≤ s.prm.stageCap) ∧
    (let s := { up with rx_remaining := 0, rx_en := false, rx_tcif := true, stage := [0x07] }
     s.ReceiveOk ∧ s.fault = none ∧ s.armed = true ∧ s.rx_tcif = true ∧ s.prm.stageCap + 1 = s.stage.length + 2) ∧
    (up.ReceiveOk ∧ up.rx_tcif = false ∧ up.idle = false) := by decide

theorem witness_TimedReadTakesOneByteOrNone :
    (base.TaskIs 1 .idle ∧ base.ready = false) ∧ (up.TaskIs 1 .idle ∧ up.ready = true) ∧
    (let s := withTask { up with byteq := [0x41] } .recvTimeout
     s.TaskIs 1 .recvTimeout ∧ s.byteq = 0x41 :: []) ∧
    (let s := withTask up .recvTimeout; s.TaskIs 1 .recvTimeout ∧ s.byteq = []) ∧
    (up.TaskIs 1 .idle ∧ TaskState.idle ≠ .recvTimeout) := by decide

theorem witness_PollDrainsTheStage :
    (up.TaskIs 0 .idle ∧ 0 = up.prm.framingTask ∧ up.rx_done = false) ∧
    (let s := { up with rx_done := true, stage := [0x01] }
     s.TaskIs 0 .idle ∧ s.ready = true ∧ s.rx_done = true ∧ s.stage.drop 1 = [] ∧ s.stage.drop 0 ≠ []) ∧
    (up.TaskIs 1 .idle ∧ 1 ≠ up.prm.framingTask) := by decide

theorem witness_ReceiveStreamLosesNothing :
    receiving.Inv ∧ receiving.ready = true ∧ receiving.nextInstr = some (.rxByte 0x02 .dma) ∧
    after (step receiving) (fun s => s.fault) = some none := ⟨receiving_inv, rfl, by decide, by decide⟩

theorem witness_ByteQueueKeepsArrivalOrder :
    receiving.ready = true ∧ (Instr.rxByte 0x02 .dma).irqOffer receiving.prm = [] ∧ receiving.byteq.length < 1024 ∧
    after (step receiving) (fun s => s.fault) = some none ∧
    (let s := { receiving with sched := [.op .op [0x40, 0x02, 1]] }
     s.nextInstr = some (.rxByte 0x02 .irq) ∧ (Instr.rxByte 0x02 .irq).irqOffer s.prm = [0x02] ∧
     after (step s) (fun s' => (s'.fault, s'.ore)) = some (none, true)) := by decide

theorem witness_ReceivePathsDoNotInteract :
    (∃ s', exec .rxneIsr receiving = .next s') ∧ (∃ s', exec (.recvTimeout 1 0) receiving = .next s') ∧
    (∃ s', exec (.rxCompleteIsr .idle) { receiving with idle := true } = .next s') ∧
    (∃ s', exec (.getAvailable 0 1) receiving = .next s') ∧
    (∃ s', exec (.timeoutExpire 1) (withTask up .recvTimeout) = .next s') ∧
    (∃ s', exec .rxIdle receiving = .next s') :=
  ⟨⟨_, rfl⟩, ⟨_, rfl⟩, ⟨_, rfl⟩, ⟨_, rfl⟩, ⟨_, rfl⟩, ⟨_, rfl⟩⟩

/-- The poll of a filled stage, and the two updates of a received byte: from `receiving`, from the same state with the
other path's fields of `up`, and for a byte that one path alone sees. -/
theorem witness_ReceivePathsDoNotInteract_updates :
    after (exec .framerPoll { receiving with rx_done := true }) (fun s => s.stage) = some [] ∧
    after (exec (.rxByte 0x02 .both) receiving) (fun s => (s.fault, s.ore, s.rx_buf)) = some (none, true, [0x01, 0x02]) ∧
    after (exec (.rxByte 0x02 .both) (receiving.withDmaPath up)) (fun s => (s.fault, s.ore, s.rx_buf)) =
      some (none, true, [0x02, 0]) ∧
    after (exec (.rxByte 0x02 .both) (receiving.withIrqPath up)) (fun s => (s.rdr, s.ore, s.rx_buf)) =
      some (0x02, false, [0x01, 0x02]) ∧
    after (exec (.rxError .ne (some 0x02) .both) (receiving.withDmaPath up)) (fun s => (s.fault, s.ne)) =
      some (none, true) ∧
    ((Instr.rxByte 0x02 .irq).dmaOffer receiving.prm = [] ∧ (Instr.rxByte 0x02 .dma).irqOffer receiving.prm = []) ∧
    ((Instr.rxError .ne none .both).dmaOffer up.prm = [] ∧ (Instr.rxError .ne none .both).irqOffer up.prm = []) := by
  decide

theorem witness_FramerHuntsForStartBytes :
    (up.FramerIdle ∧ up.fs = .waitStart1) ∧ ((framing .waitStart2).FramerIdle ∧ (framing .waitStart2).fs = .waitStart2) := by
  decide

theorem witness_FramerTakesTypeAndLength :
    ((framing .waitType).FramerIdle ∧ (framing .waitType).fs = .waitType) ∧
    ((framing .waitLength).FramerIdle ∧ (framing .waitLength).fs = .waitLength ∧
      (framing .waitLength).prm.mtu.toNat < (5 : Byte).toNat) ∧
    ((4 : Byte).toNat ≤ (framing .waitLength).prm.mtu.toNat ∧ (0 : Byte).toNat ≤ (framing .waitLength).prm.mtu.toNat) := by
  decide

theorem witness_FramerTakesPayload :
    ((framing .waitData).FramerIdle ∧ (framing .waitData).FramerOk ∧ (framing .waitData).fs = .waitData) ∧
    (let s := { framing .waitData with f_idx := 1 }
     s.FramerIdle ∧ s.FramerOk ∧ s.f_idx + 1 = s.f_length.toNat) := by decide

theorem witness_FramerChecksBothSums :
    ((checking .waitChecksum1).FramerIdle ∧ (checking .waitChecksum1).FramerOk ∧
      (checking .waitChecksum1).fs = .waitChecksum1) ∧
    ((checking .waitChecksum2).FramerIdle ∧ (checking .waitChecksum2).FramerOk ∧
      (checking .waitChecksum2).fs = .waitChecksum2 ∧ (0x18 : Byte) ≠ (checking .waitChecksum2).f_ck1 ∧
      (0x19 : Byte) = (checking .waitChecksum2).f_ck1) := by decide

theorem witness_SelectedRowIsFeed : up.FramerIdle ∧ up.FramerOk := by decide

theorem witness_RowsUpToLengthComplete :
    (up.FramerIdle ∧ up.fs = .waitStart1 ∧ (0x55 : Byte) ≠ 0xBC) ∧
    ((framing .waitStart2).FramerIdle ∧ (framing .waitStart2).fs ≠ .waitStart1) := by decide

theorem witness_RowsFromDataComplete :
    ((framing .waitData).FramerIdle ∧ (framing .waitData).FramerOk ∧ (framing .waitData).fs = .waitData ∧
      (framing .waitData).f_idx + 1 < (framing .waitData).f_length.toNat) ∧
    (let s := { framing .waitData with f_idx := 1 }
     s.FramerIdle ∧ s.FramerOk ∧ s.f_idx + 1 = s.f_length.toNat) ∧
    ((checking .waitChecksum2).FramerIdle ∧ (checking .waitChecksum2).FramerOk ∧
      (checking .waitChecksum2).fs = .waitChecksum2 ∧ (0x19 : Byte) = (checking .waitChecksum2).f_ck1) ∧
    (up.FramerIdle ∧ up.FramerOk ∧ up.fs ≠ .waitData ∧ up.fs ≠ .waitChecksum2) := by decide

theorem witness_PollFeedsWhatItReads :
    up.FramerIdle ∧ up.FramerOk ∧ (checking .waitChecksum2).FramerIdle ∧ (checking .waitChecksum2).FramerOk := by decide

theorem witness_FrameIsFedInSequenceOrder : (framing .waitData).FramerIdle ∧ (framing .waitData).FramerOk := by decide

theorem witness_SerializedFrameIsDispatchedOnce :
    up.FramerIdle ∧ up.FramerOk ∧ up.fs = .waitStart1 ∧ pB.wf = true ∧ pB.length ≤ up.prm.mtu ∧
    (let p : Packet := { type := 0x20, length := 4, data := [0xFF, 0xFF, 0xFF, 0xFF] }
     p.wf = true ∧ p.length = up.prm.mtu) := by decide

theorem witness_CorruptedFramesDispatchNothing :
    (up.FramerIdle ∧ up.FramerOk ∧ up.fs = .waitStart1) ∧
    (let f : Frame := { type := 0x01, length := 0x02, data := [0xAA, 0xBB], cksum0 := 0x68, cksum1 := 0x18 }
     f.wf = true ∧ f.length ≤ up.prm.mtu ∧ f.cksum0 = f.packet.frame.cksum0 ∧ f.cksum1 ≠ f.packet.frame.cksum1) ∧
    (let f : Frame := { type := 0x01, length := 0x02, data := [0xAA, 0xBB], cksum0 := 0x69, cksum1 := 0x19 }
     f.wf = true ∧ f.length ≤ up.prm.mtu ∧ f.cksum0 ≠ f.packet.frame.cksum0) ∧
    up.prm.mtu < (5 : Byte) := by decide

theorem witness_SendPacketRunsItsPhases :
    (let p : Packet := { type := 0x01, length := 5, data := [1, 2, 3, 4, 5] }
     p.wf = true ∧ up.TaskIs 1 .idle ∧ up.prm.mtu < p.length) ∧
    (pB.wf = true ∧ base.TaskIs 1 .idle ∧ pB.length ≤ base.prm.mtu ∧ base.ready = false ∧
      base.prm.sendBeforeInit = .fault) ∧
    (up.TaskIs 1 .idle ∧ pB.length ≤ up.prm.mtu ∧ up.ready = true) ∧
    (let s := { base with prm := { tiny with sendBeforeInit := .noop } }
     s.TaskIs 1 .idle ∧ pB.length ≤ s.prm.mtu ∧ s.ready = false ∧ s.prm.sendBeforeInit = .noop) ∧
    (let s := withTask { base with prm := { tiny with sendBeforeInit := .noop } } (.sendPacket pB .dma0)
     s.TaskIs 1 (.sendPacket pB .dma0) ∧ s.ready = false) ∧
    (let s := withTask up (.sendPacket pB .m); s.TaskIs 1 (.sendPacket pB .m) ∧ s.send_mutex = .free) ∧
    (let s := withTask { up with send_mutex := .held 2 } (.sendPacket pB .m)
     s.TaskIs 1 (.sendPacket pB .m) ∧ s.send_mutex ≠ .free) ∧
    (let s := withTask { up with send_mutex := .held 1 } (.sendPacket pB .s)
     s.TaskIs 1 (.sendPacket pB .s) ∧ s.send_mutex = .held 1) ∧
    ((withTask up (.sendPacket pB .dma0)).TaskIs 1 (.sendPacket pB .dma0) ∧ up.ready = true) ∧
    (let s := withTask up (.sendPacket pB .a); s.TaskIs 1 (.sendPacket pB .a) ∧ s.tx_lock = .free) ∧
    (let s := withTask up (.sendPacket pB .c)
     s.TaskIs 1 (.sendPacket pB .c) ∧ s.tx_en = false ∧ s.is_paused = false) ∧
    (sentPacket.TaskIs 1 (.sendPacket pB .d) ∧ sentPacket.tx_done = true) ∧
    (withTask up (.sendPacket pB .e)).TaskIs 1 (.sendPacket pB .e) ∧
    (withTask up (.sendPacket pB .z)).TaskIs 1 (.sendPacket pB .z) := by decide

/-- The waiting clauses of the same statement. -/
theorem witness_SendPacketRunsItsPhases_waits :
    (let s := withTask { up with tx_lock := .held 2 } (.sendPacket pB .a)
     s.TaskIs 1 (.sendPacket pB .a) ∧ s.tx_lock ≠ .free) ∧
    (let s := withTask { up with tx_en := true } (.sendPacket pB .c)
     s.TaskIs 1 (.sendPacket pB .c) ∧ (s.tx_en = true ∨ s.is_paused = true)) ∧
    (let s := withTask up (.sendPacket pB .d); s.TaskIs 1 (.sendPacket pB .d) ∧ s.tx_done = false) := by decide

/-- A ready block, and one that is not (`SEND_BEFORE_INIT = noop`). -/
theorem witness_SerializeWritesTheFrame :
    (let s := withTask { up with send_mutex := .held 1 } (.sendPacket pB .s)
     s.prm.Valid ∧ s.mem.Wf ∧ pB.wf = true ∧ pB.length ≤ s.prm.mtu ∧ s.send_mutex = .held 1 ∧
     s.TaskIs 1 (.sendPacket pB .s) ∧ s.ready = true) ∧
    (let s := withTask { base with send_mutex := .held 1, prm := { tiny with sendBeforeInit := .noop } } (.sendPacket pB .s)
     s.prm.Valid ∧ s.mem.Wf ∧ pB.length ≤ s.prm.mtu ∧ s.send_mutex = .held 1 ∧ s.TaskIs 1 (.sendPacket pB .s) ∧
     s.ready = false) := by decide

theorem witness_DispatchRoutesByGroup :
    up.FramerIdle ∧ pA.wf = true ∧ pA.type &&& up.prm.groupMask = up.prm.groupRadio ∧
    ((0x13 : Byte) &&& up.prm.groupMask = up.prm.groupPm ∧ up.prm.groupPm ≠ up.prm.groupRadio) ∧
    ((0x21 : Byte) &&& up.prm.groupMask = up.prm.groupOw ∧ up.prm.groupOw ≠ up.prm.groupRadio ∧
      up.prm.groupOw ≠ up.prm.groupPm) ∧
    (let g := (0xF3 : Byte) &&& up.prm.groupMask
     g ≠ up.prm.groupRadio ∧ g ≠ up.prm.groupPm ∧ g ≠ up.prm.groupOw) := by decide

theorem witness_DecodeUndoesEncode :
    (Instr.sendDma (2 ^ 32 - 1) 0xFFFFFFFF 0xFFFFFFFF).wf = true ∧ (Instr.feedWaitLengthData 0xFF).wf = true ∧
    (Instr.frame { type := 0, length := 1, data := [0xBC], cksum0 := 0, cksum1 := 0 }).wf = true := by decide

theorem witness_DecodingIsUnambiguous : decode .op [0x40, 0x7E, 2, 0xFF] = .ok (.rxByte 0x7E .both, [0xFF]) := by decide

theorem witness_StepRunsTheOfferedOperation :
    up.sched = [] ∧ (sending.sched = [.op .op [0x30]] ∧ decode .op [0x30] = .ok (.txBeat, [])) ∧
    decode .op [0x0A] = .error (.unknownOpid 0x0A) ∧
    (sentPacket.sched = [.proceed 1] ∧ (TaskState.sendPacket pB .d).instr 1 = some (.sendPacket 1 pB)) ∧
    up.task[1]? = some .idle ∧ up.task[2]? = some .idle ∧ up.task[3]? = none ∧
    (let s := { up with sched := [.hostWrite 0x2000 1] }; s.sched = [.hostWrite 0x2000 1]) ∧
    (let s := { up with sched := [.hostWrite 0x2000 1], fault := some .sendNotReady }
     s.sched = [.hostWrite 0x2000 1] ∧ s.fault ≠ none) := by decide

/-- The edges of `txf` (`0x1000 .. 0x1009`) and of the transfer of `sending` (`0x2000 .. 0x2001`). -/
theorem witness_HostWritesItsOwnMemory :
    sending.mem.Wf ∧ sending.fault = none ∧ sending.task[1]? = some (.sendDma 0x2000 2 .d) ∧
    (sending.prm.txfBase.toNat ≤ 0x1009 ∧ 0x1009 < sending.prm.txfBase.toNat + sending.prm.mtu.toNat + 6) ∧
    (sending.prm.txfBase.toNat + sending.prm.mtu.toNat + 6 ≤ 0x100A ∧ 0xFFF < sending.prm.txfBase.toNat) ∧
    refusal (step { sending with sched := [.hostWrite 0x1009 1] }) = some (.frameBufferWrite 0x1009) ∧
    refusal (step { sending with sched := [.hostWrite 0x2001 1] }) = some (.bufferInFlight 0x2001) ∧
    after (step { sending with sched := [.hostWrite 0x100A 1] }) (fun s => s.mem.read 0x100A) = some 1 ∧
    after (step { sending with sched := [.hostWrite 0x2002 1] }) (fun s => s.mem.read 0x2002) = some 1 := by decide

theorem witness_FaultFreezesTheState : { up with fault := some .sendNotReady }.fault ≠ none := by decide

theorem witness_RaisingAFaultChangesNothingElse :
    (base.fault = none ∧ after (exec (.sendPacket 1 pB) base) (fun s => s.fault) = some (some .sendNotReady)) ∧
    after (exec (.sendPacket 1 { type := 1, length := 5, data := [1, 2, 3, 4, 5] }) up) (fun s => s.fault) =
      some (some (.assertMtu 5)) ∧
    after (exec (.rxByte 3 .both) { up with rx_remaining := 0, rx_en := false }) (fun s => s.fault) =
      some (some (.rxDmaOverrun 3)) ∧
    after (exec (.rxCompleteIsr .tc) { up with rx_remaining := 0, rx_en := false, rx_tcif := true, stage := [7] })
      (fun s => s.fault) = some (some (.rxStageOverflow 1 2)) := by decide

theorem witness_PendingFlagsStayUntilServiced :
    after (exec .rxIdle { receiving with ore := true, idle := true, rx_tcif := true, fc_pend := true })
      (fun s => (s.rxne, s.ore, s.idle, s.rx_tcif, s.fc_pend)) = some (true, true, true, true, true) := by decide

theorem witness_ServiceStepsOnlyGive : Instr.txTcIsr.isIrq = true ∧ sending.ReceiveOk := by decide

/-- A next state for one operation of each kind the frame statements speak of: `exec i s = .next s'` is met. -/
theorem witness_frames :
    (∃ s', exec .txBeat sending = .next s') ∧ (∃ s', exec .fcIsr pausedTransfer = .next s') ∧
    (∃ s', exec (.fcEdge true) up = .next s') ∧ (∃ s', exec (.feed 0xBC) up = .next s') ∧
    (∃ s', exec (.init 1) base = .next s') ∧ (∃ s', exec (.dispatch pB) up = .next s') :=
  ⟨⟨_, rfl⟩, ⟨_, rfl⟩, ⟨_, rfl⟩, ⟨_, rfl⟩, ⟨_, rfl⟩, ⟨_, rfl⟩⟩

theorem witness_ReadyAndPinHaveOneWriter :
    (∃ s', exec (.init 1) base = .next s') ∧ (∃ s', exec (.fcEdge true) up = .next s') ∧ up.ready = true ∧
    up.armed = true := ⟨⟨_, rfl⟩, ⟨_, rfl⟩, rfl, rfl⟩

theorem witness_OnlyFlowControlWritesThePauseState :
    Instr.txBeat.isFlowControl = false ∧ ∃ s', exec .txBeat sending = .next s' := ⟨rfl, _, rfl⟩

theorem witness_OnlyTheFramerWritesItsRegisters :
    Instr.txBeat.isFramer = false ∧ ∃ s', exec .txBeat sending = .next s' := ⟨rfl, _, rfl⟩

theorem witness_OutputsAreAppendOnly :
    after (exec .txBeat sending) (fun s => s.wire_tx) = some [0x10] ∧
    after (exec (.dispatch pB) up) (fun s => s.diag_log) = some [.unknownGroup pB] := by decide

theorem witness_WireTakesOneByteAtATime :
    after (exec .txBeat sending) (fun s => decide (s.wire_tx ≠ sending.wire_tx)) = some true ∧
    after (exec (.sendLowRate 1 [0x55]) (withTask up (.sendLowRate [0x55] 0))) (fun s => s.wire_tx) = some [0x55] := by
  decide

theorem witness_OperationsTouchOnlyTheirCaller :
    (Instr.recvTimeout 1 0).caller up = some 1 ∧
    after (exec (.recvTimeout 1 0) up) (fun s => (s.task[1]?, s.task[2]?)) = some (some .recvTimeout, some .idle) := by
  decide

theorem witness_OnlyTheFrameBuildWritesMemory :
    sentPacket.TasksOk ∧ sentPacket.mem.Wf ∧ after (exec (.sendPacket 1 pB) sentPacket) (fun s => s.mem) =
      some sentPacket.mem := by decide

/-- A next state, and each refusal. -/
theorem witness_OperationsStopOnlyWhereRefused :
    sending.Inv ∧ Instr.txBeat.wf = true ∧ Instr.txBeat.caller sending = none ∧
    (Instr.init 2).caller up = some 2 ∧ 2 < up.prm.ntask ∧ up.Inv ∧
    refusal (exec (.init 2) up) = some .secondInit ∧ refusal (exec (.sendDma 2 0x2000 0) up) = some .emptyTransfer ∧
    refusal (exec (.sendDma 2 0xFFFFFFFF 2) up) = some .wrappingTransfer ∧
    refusal (exec (.getAvailable 2 1) up) = some (.notFramingTask 2) :=
  ⟨sending_inv, rfl, rfl, rfl, by decide, up_inv, by decide, by decide, by decide, by decide⟩

theorem witness_StepKeepsMemoryCanonical : sending.mem.Wf ∧ ∃ s', step sending = .next s' := ⟨by decide, _, rfl⟩

theorem witness_StepKeepsLockDiscipline : (sending.TasksOk ∧ sending.LocksOk) ∧ ∃ s', step sending = .next s' :=
  ⟨by decide, _, rfl⟩

theorem witness_StepKeepsInvariants :
    (sending.Inv ∧ ∃ s', step sending = .next s') ∧ (pausedTransfer.Inv ∧ ∃ s', step pausedTransfer = .next s') :=
  ⟨⟨sending_inv, _, rfl⟩, ⟨pausedTransfer_inv, _, rfl⟩⟩

/-- Both receive causes pending and the buffer full (vector Y20), with one more step offered. -/
def bothPending (w : List Byte) : State :=
  { up with rx_remaining := 0, rx_en := false, rx_tcif := true, idle := true, sched := [.op .op w] }

theorem bothPending_nil_inv : (bothPending []).Inv :=
  ⟨by decide, by decide, by decide, by decide, by decide, by decide, by decide, by decide, by decide⟩

theorem bothPending_inv (w : List Byte) : (bothPending w).Inv := bothPending_nil_inv

/-- The two clauses on item 5: an idle service with `rx_tcif` clear, another step with it set, and the service of `TC`. -/
theorem witness_StepKeepsInvariants_itemFive :
    (let s := { receiving with idle := true, sched := [.op .op [0x21, 1]] }
     s.Inv ∧ s.Item5 ∧ s.nextInstr = some (.rxCompleteIsr .idle) ∧ s.rx_tcif = false ∧
     after (step s) (fun s' => s'.idle) = some false) ∧
    ((bothPending [0x42]).Inv ∧ (bothPending [0x42]).Item5 ∧ (bothPending [0x42]).nextInstr = some .rxIdle ∧
     after (step (bothPending [0x42])) (fun s' => s'.rx_tcif) = some true) ∧
    ((bothPending [0x21, 0]).Inv ∧ (bothPending [0x21, 0]).nextInstr = some (.rxCompleteIsr .tc) ∧
     after (step (bothPending [0x21, 0])) (fun s' => (s'.fault, s'.rx_tcif)) = some (none, false)) :=
  ⟨⟨receiving_inv, by decide⟩, ⟨bothPending_inv _, by decide⟩, ⟨bothPending_inv _, by decide⟩⟩

theorem witness_BuiltFrameStaysUntilSent :
    sentPacket.Inv ∧ sentPacket.FramesBuilt ∧ ∃ s', step sentPacket = .next s' := ⟨sentPacket_inv, by decide, _, rfl⟩

/-- While task 1 sends (its buffer, or its frame), task 2 attempts phase A of either send, and phase M. -/
def contending (ts : TaskState) : State := { sentPacket with task := [.idle, .sendPacket pB .d, ts] }

theorem contending_dma_inv : (contending (.sendDma 0x2000 2 .a)).Inv :=
  ⟨by decide, by decide, by decide, by decide, by decide, by decide, by decide, by decide, by decide⟩
theorem contending_packet_inv : (contending (.sendPacket pA .m)).Inv :=
  ⟨by decide, by decide, by decide, by decide, by decide, by decide, by decide, by decide, by decide⟩

/-- A task of `SEND_PACKET` cannot stand at phase A beside a holder of `send_mutex`; it can beside `SEND_DMA`. -/
def contendingAtA : State :=
  { sending with task := [.idle, .sendDma 0x2000 2 .d, .sendPacket pB .a], send_mutex := .held 2 }

theorem contendingAtA_inv : contendingAtA.Inv :=
  ⟨by decide, by decide, by decide, by decide, by decide, by decide, by decide, by decide, by decide⟩

theorem witness_TransfersAndFramesAreExclusive :
    (contending (.sendDma 0x2000 2 .a)).Inv ∧ (contending (.sendPacket pA .m)).Inv ∧ contendingAtA.Inv ∧
    ((TaskState.sendPacket pB .d).holdsTxLock = true ∧ (TaskState.sendPacket pB .d).holdsSendMutex = true ∧
      (TaskState.sendDma 0x2000 2 .d).holdsTxLock = true) ∧
    ((contending (.sendDma 0x2000 2 .a)).task[1]? = some (.sendPacket pB .d) ∧
      (contending (.sendDma 0x2000 2 .a)).task[2]? = some (.sendDma 0x2000 2 .a) ∧
      ∃ s', exec (.sendDma 2 0x2000 2) (contending (.sendDma 0x2000 2 .a)) = .next s') ∧
    ((contending (.sendPacket pA .m)).task[2]? = some (.sendPacket pA .m) ∧
      ∃ s', exec (.sendPacket 2 pA) (contending (.sendPacket pA .m)) = .next s') ∧
    (contendingAtA.task[2]? = some (.sendPacket pB .a) ∧ ∃ s', exec (.sendPacket 2 pB) contendingAtA = .next s') :=
  ⟨contending_dma_inv, contending_packet_inv, contendingAtA_inv, by decide, ⟨by decide, by decide, _, rfl⟩,
   ⟨by decide, _, rfl⟩, ⟨by decide, _, rfl⟩⟩

/-- Vector Y20: the idle service offered first. -/
theorem witness_StepKeepsItemFiveAsWritten :
    (bothPending [0x21, 1]).Inv ∧ (bothPending [0x21, 1]).Item5 ∧
    after (step (bothPending [0x21, 1])) (fun s' => (s'.rx_tcif, s'.rx_remaining)) = some (true, 2) :=
  ⟨bothPending_inv _, by decide, by decide⟩

end Sys2Proof.Tests
end

section
/-! SUPPORT. What the step runs (00_scope.md rule R6, Machine/Fetch.lean): one equation per shape of the offered steps, and
one per branch of what an offered step runs. -/

namespace Sys2Proof.Machine

variable {s : State}

theorem step_of_sched_nil (h : s.sched = []) : step s = .next s := by
  simp only [step, runNext, h]

theorem step_of_sched_cons {e : Event} {rest : List Event} (h : s.sched = e :: rest) :
    step s = runEvent e { s with sched := rest } := by
  simp only [step, runNext, h]

theorem runWord_of_decode_ok {fmt : Format} {word tail : List Byte} {i : Instr} (h : decode fmt word = .ok (i, tail)) :
    runWord fmt word s = exec i s := by
  simp only [runWord, h]

theorem runWord_of_decode_error {fmt : Format} {word : List Byte} {e : DecodeError} (h : decode fmt word = .error e) :
    runWord fmt word s = .refused (.undecodable e) := by
  simp only [runWord, h]

theorem proceed_of_instr {t : Nat} {ts : TaskState} {i : Instr} (ht : s.task[t]? = some ts) (hi : ts.instr t = some i) :
    proceed t s = exec i s := by
  simp only [proceed, ht, hi]

theorem proceed_of_idle {t : Nat} (ht : s.task[t]? = some .idle) : proceed t s = .next s := by
  simp only [proceed, ht, TaskState.instr, waits_eq]

theorem proceed_of_no_task {t : Nat} (ht : s.task[t]? = none) : proceed t s = .refused (.noSuchTask t) := by
  simp only [proceed, ht]

theorem hostStore_faulted {a : Addr} {v : Byte} (h : s.fault ≠ none) : hostStore a v s = .next s :=
  liveStep_faulted h

end Sys2Proof.Machine

namespace Sys2Proof

open Machine

/-- Settles O41, by the shape of the offered steps: `step` runs the front one, and each clause is one branch of what that
one runs. -/
theorem stepRunsTheOfferedOperation : Obligations.StepRunsTheOfferedOperation := by
  intro s
  refine ⟨step_of_sched_nil, ?word, ?badWord, ?phase, ?idle, ?noTask, ?store, ?storeFaulted⟩
  case word =>
    intro fmt word rest i tail hs hd
    exact (step_of_sched_cons hs).trans (runWord_of_decode_ok hd)
  case badWord =>
    intro fmt word rest e hs hd
    exact (step_of_sched_cons hs).trans (runWord_of_decode_error hd)
  case phase =>
    intro t rest ts i hs ht hi
    exact (step_of_sched_cons hs).trans (proceed_of_instr ht hi)
  case idle =>
    intro t rest hs ht
    exact (step_of_sched_cons hs).trans (proceed_of_idle ht)
  case noTask =>
    intro t rest hs ht
    exact (step_of_sched_cons hs).trans (proceed_of_no_task ht)
  case store =>
    intro a v rest hs
    exact step_of_sched_cons hs
  case storeFaulted =>
    intro a v rest hs hf
    exact (step_of_sched_cons hs).trans (hostStore_faulted hf)

end Sys2Proof
end

section
/-! SUPPORT. Who writes what (10_state.md rules R11 to R27): the receive side and the transmit side of the block as classes
of operations, each with the frame of every effect of the class. -/

namespace Sys2Proof

/-- The operations of the receive side: the two receive paths, the poll, the framer and its dispatch
(42_transport_rx.md, 43_framer.md). -/
def Instr.isReceiver (i : Instr) : Bool :=
  match i with
  | .rxneIsr | .rxCompleteIsr _ | .rxByte _ _ | .rxError _ _ _ | .rxIdle | .getAvailable _ _ | .dispatch _ => true
  | i => i.isFramer

/-- The operations of the transmit side, with flow control (40_transport_tx.md, 41_flow_control.md,
44_serializer_dispatch.md). -/
def Instr.isTransmitter (i : Instr) : Bool :=
  match i with
  | .sendLowRate _ _ | .sendDma _ _ _ | .sendPacket _ _ | .serialize _ | .txBeat | .txEmpty | .txTcIsr => true
  | i => i.isFlowControl

theorem Instr.isReceiver_of_isFramer {i : Instr} (h : i.isFramer = true) : i.isReceiver = true := by
  cases i <;> simp_all [Instr.isReceiver, Instr.isFramer]

theorem Instr.isTransmitter_of_isFramer {i : Instr} (h : i.isFramer = true) : i.isTransmitter = false := by
  cases i <;> simp_all [Instr.isTransmitter, Instr.isFlowControl, Instr.isFramer]

end Sys2Proof

namespace Sys2Proof.Machine

variable {i : Instr} {s s' : State}

/-- Only fields of the receive side differ (receiver, receive stream, queues, framer, logs, results, fault), and the logs
and results only grow. -/
structure ReceiverFrame (s s' : State) : Prop where
  frame : s' = { s with
    rdr := s'.rdr
    rxne := s'.rxne
    idle := s'.idle
    pe := s'.pe
    fe := s'.fe
    ne := s'.ne
    ore := s'.ore
    rx_en := s'.rx_en
    rx_remaining := s'.rx_remaining
    rx_tcif := s'.rx_tcif
    rx_buf := s'.rx_buf
    rx_done := s'.rx_done
    stage := s'.stage
    byteq := s'.byteq
    fs := s'.fs
    f_type := s'.f_type
    f_length := s'.f_length
    f_data := s'.f_data
    f_idx := s'.f_idx
    f_ck0 := s'.f_ck0
    f_ck1 := s'.f_ck1
    dispatch_log := s'.dispatch_log
    diag_log := s'.diag_log
    fault := s'.fault
    ret := s'.ret }
  dispatch : s.dispatch_log <+: s'.dispatch_log
  diag : s.diag_log <+: s'.diag_log
  results : s.ret <+: s'.ret

/-- Only fields of the transmit side differ (transmitter, transmit stream, pause state, locks, memory, tasks, results,
fault), and the wire and the results only grow. -/
structure TransmitterFrame (s s' : State) : Prop where
  frame : s' = { s with
    txe := s'.txe
    fc_pend := s'.fc_pend
    tx_en := s'.tx_en
    tx_ptr := s'.tx_ptr
    tx_count := s'.tx_count
    tx_tcie := s'.tx_tcie
    tx_tcif := s'.tx_tcif
    tx_base := s'.tx_base
    tx_size := s'.tx_size
    is_paused := s'.is_paused
    initial_count := s'.initial_count
    remaining_count := s'.remaining_count
    tx_lock := s'.tx_lock
    tx_done := s'.tx_done
    send_mutex := s'.send_mutex
    mem := s'.mem
    wire_tx := s'.wire_tx
    fault := s'.fault
    task := s'.task
    ret := s'.ret }
  wire : s.wire_tx <+: s'.wire_tx
  results : s.ret <+: s'.ret

theorem polled_eq (s : State) : s.polled = { s with
    stage := if s.ready && s.rx_done then s.stage.drop s.prm.pollMax else s.stage
    rx_done := s.rx_done && !(s.ready && (s.stage.drop s.prm.pollMax).isEmpty)
    ret := s.ret ++ [(s.prm.framingTask, .available (s.availableBytes s.prm.pollMax))] } := by
  rw [State.polled, drained_eq]
  rfl

/-- An operation of the receive side changes nothing but fields of the receive side. -/
theorem Effect.receiverFrame (h : Effect s i s') (hi : i.isReceiver = true) : ReceiverFrame s s' := by
  cases h with
  | errorFlag | errorIrq | errorBoth => rw [setLineError_eq]; exact ⟨rfl, List.prefix_rfl, List.prefix_rfl, List.prefix_rfl⟩
  | handOff => rw [clearCause_eq]; exact ⟨rfl, List.prefix_rfl, List.prefix_append .., List.prefix_rfl⟩
  | available => rw [drained_eq]; exact ⟨rfl, List.prefix_rfl, List.prefix_rfl, List.prefix_append ..⟩
  | dispatch => rw [dispatched_eq]; exact ⟨rfl, List.prefix_append .., List.prefix_append .., List.prefix_rfl⟩
  | feed _ _ h1 =>
    obtain ⟨hf, hd, hg⟩ := feedBytes_frame h1
    exact ⟨by rw [hf], hd, hg, by rw [hf]⟩
  | poll _ h1 =>
    obtain ⟨hf, hd, hg⟩ := feedBytes_frame h1
    rw [polled_eq] at hf hd hg
    exact ⟨by rw [hf], hd, hg, by rw [hf]; exact List.prefix_append ..⟩
  | rxne | stageOverflow | offerOverrun | rxIrq | rxBoth | rxIdle =>
    exact ⟨rfl, List.prefix_rfl, List.prefix_rfl, List.prefix_rfl⟩
  | _ => cases hi

/-- An operation of the transmit side changes nothing but fields of the transmit side. -/
theorem Effect.transmitterFrame (h : Effect s i s') (hi : i.isTransmitter = true) : TransmitterFrame s s' := by
  cases h with
  | dmaProgram _ hp | packetProgram _ hp =>
    obtain ⟨-, -, rfl⟩ := programTx_some hp
    exact ⟨rfl, List.prefix_rfl, List.prefix_rfl⟩
  | pause => rw [paused_eq]; exact ⟨rfl, List.prefix_rfl, List.prefix_rfl⟩
  | resume => rw [resumed_eq]; exact ⟨rfl, List.prefix_rfl, List.prefix_rfl⟩
  | fcIsr => split <;> simp only [paused_eq, resumed_eq] <;> exact ⟨rfl, List.prefix_rfl, List.prefix_rfl⟩
  | lowRateByte | beat => exact ⟨rfl, List.prefix_append .., List.prefix_rfl⟩
  | dmaAbsent | dmaReturn | packetReturn => exact ⟨rfl, List.prefix_rfl, List.prefix_append ..⟩
  | feed hf => exact absurd hi (by simp [Instr.isTransmitter_of_isFramer hf])
  | init | recvAbsent | recvEntry | recvTake | expire | available | dispatch | rxne | handOff | rxIrq | rxBoth | errorFlag
  | errorIrq | errorBoth | rxIdle | fcEdge | poll => cases hi
  | _ => exact ⟨rfl, List.prefix_rfl, List.prefix_rfl⟩

/-- Flow control changes nothing but the pause state, the live registers of the transmit stream and the pending edge. -/
theorem Effect.flowControlFrame (h : Effect s i s') (hi : i.isFlowControl = true) : s' = { s with
    fc_pend := s'.fc_pend
    tx_en := s'.tx_en
    tx_ptr := s'.tx_ptr
    tx_count := s'.tx_count
    tx_tcie := s'.tx_tcie
    is_paused := s'.is_paused
    initial_count := s'.initial_count
    remaining_count := s'.remaining_count
    fault := s'.fault } := by
  cases h with
  | pause => rw [paused_eq]
  | resume => rw [resumed_eq]
  | fcIsr => split <;> simp only [paused_eq, resumed_eq]
  | offerOverrun => rfl
  | feed hf => cases i <;> simp_all [Instr.isFramer, Instr.isFlowControl]
  | _ => cases hi

/-- No operation changes a parameter or the offered steps; only `INIT` writes the readiness of the block and only
`FC_EDGE` the level of the pin. -/
theorem Effect.config (h : Effect s i s') :
    (s'.prm = s.prm ∧ s'.sched = s.sched) ∧
    (s'.ready = s.ready ∧ s'.armed = s.armed ∧ s'.cfg = s.cfg ∨ (∃ t, i = .init t) ∧ s' = s.initialised) ∧
    (s'.fc_level = s.fc_level ∨ ∃ level, i = .fcEdge level) := by
  have hr := h.receiverFrame
  have ht := h.transmitterFrame
  cases h with
  | errorFlag | errorIrq | errorBoth | handOff | available | dispatch | poll =>
    rw [(hr rfl).frame]; exact ⟨⟨rfl, rfl⟩, .inl ⟨rfl, rfl, rfl⟩, .inl rfl⟩
  | feed hf =>
    rw [(hr (Instr.isReceiver_of_isFramer hf)).frame]; exact ⟨⟨rfl, rfl⟩, .inl ⟨rfl, rfl, rfl⟩, .inl rfl⟩
  | dmaProgram | packetProgram | fcIsr | pause | resume =>
    rw [(ht rfl).frame]; exact ⟨⟨rfl, rfl⟩, .inl ⟨rfl, rfl, rfl⟩, .inl rfl⟩
  | init => exact ⟨⟨rfl, rfl⟩, .inr ⟨⟨_, rfl⟩, rfl⟩, .inl rfl⟩
  | fcEdge => exact ⟨⟨rfl, rfl⟩, .inl ⟨rfl, rfl, rfl⟩, .inr ⟨_, rfl⟩⟩
  | _ => exact ⟨⟨rfl, rfl⟩, .inl ⟨rfl, rfl, rfl⟩, .inl rfl⟩

/-- The pause state after an operation that is none of flow control. -/
theorem Effect.pauseState (h : Effect s i s') (hi : i.isFlowControl = false) :
    s'.is_paused = s.is_paused ∧ s'.initial_count = s.initial_count ∧ s'.remaining_count = s.remaining_count := by
  have hr := h.receiverFrame
  cases h with
  | fcIsr | pause | resume => cases hi
  | errorFlag | errorIrq | errorBoth | handOff | available | dispatch | poll =>
    rw [(hr rfl).frame]; exact ⟨rfl, rfl, rfl⟩
  | feed hf => rw [(hr (Instr.isReceiver_of_isFramer hf)).frame]; exact ⟨rfl, rfl, rfl⟩
  | dmaProgram _ hp | packetProgram _ hp => obtain ⟨-, -, rfl⟩ := programTx_some hp; exact ⟨rfl, rfl, rfl⟩
  | _ => exact ⟨rfl, rfl, rfl⟩

/-- The framer registers (rule R23). -/
def State.framerRegs (s : State) : FramerState × Byte × Byte × List Byte × Nat × Byte × Byte :=
  (s.fs, s.f_type, s.f_length, s.f_data, s.f_idx, s.f_ck0, s.f_ck1)

theorem Effect.framerRegs (h : Effect s i s') (hi : i.isFramer = false) : s'.framerRegs = s.framerRegs := by
  have ht := h.transmitterFrame
  cases h with
  | feed hf => simp [hf] at hi
  | poll => cases hi
  | dmaProgram | packetProgram | fcIsr | pause | resume => rw [(ht rfl).frame]; rfl
  | errorFlag | errorIrq | errorBoth => rw [setLineError_eq]; rfl
  | handOff => rw [clearCause_eq]; rfl
  | available => rw [drained_eq]; rfl
  | dispatch => rw [dispatched_eq]; rfl
  | _ => rfl

/-- The output traces only grow. -/
theorem Effect.traces (h : Effect s i s') :
    s.wire_tx <+: s'.wire_tx ∧ s.dispatch_log <+: s'.dispatch_log ∧ s.diag_log <+: s'.diag_log ∧ s.ret <+: s'.ret := by
  by_cases hr : i.isReceiver = true
  · obtain ⟨hf, hd, hg, ho⟩ := h.receiverFrame hr
    exact ⟨by rw [hf], hd, hg, ho⟩
  by_cases ht : i.isTransmitter = true
  · obtain ⟨hf, hw, ho⟩ := h.transmitterFrame ht
    exact ⟨hw, by rw [hf], by rw [hf], ho⟩
  cases h with
  | init | recvEntry | fcEdge | offerOverrun =>
    exact ⟨List.prefix_rfl, List.prefix_rfl, List.prefix_rfl, List.prefix_rfl⟩
  | recvAbsent | recvTake | expire => exact ⟨List.prefix_rfl, List.prefix_rfl, List.prefix_rfl, List.prefix_append ..⟩
  | feed hf => exact absurd (Instr.isReceiver_of_isFramer hf) hr
  | rxne | stageOverflow | handOff | available | dispatch | rxIrq | rxBoth | errorFlag | errorIrq | errorBoth | rxIdle
  | poll => exact absurd rfl hr
  | _ => exact absurd rfl ht

/-- The byte an operation puts on the wire, if it puts one there: a beat's, or a phase's of `SEND_LOW_RATE`. -/
theorem Effect.wire (h : Effect s i s') : s'.wire_tx = s.wire_tx ∨ s.txe = true ∧ s'.txe = false ∧
    ∃ b, s'.wire_tx = s.wire_tx ++ [b] ∧
      (i = .txBeat ∧ b = s.mem.read s.tx_ptr ∨
       ∃ t bytes k, i = .sendLowRate t bytes ∧ s.task[t]? = some (.sendLowRate bytes k) ∧ bytes[k]? = some b) := by
  have hr := h.receiverFrame
  have hc := h.flowControlFrame
  cases h with
  | beat _ _ hx => exact .inr ⟨hx, rfl, _, rfl, .inl ⟨rfl, rfl⟩⟩
  | lowRateByte h hx hb => exact .inr ⟨hx, rfl, _, rfl, .inr ⟨_, _, _, rfl, h.2, hb⟩⟩
  | errorFlag | errorIrq | errorBoth | handOff | available | dispatch | poll => rw [(hr rfl).frame]; exact .inl rfl
  | feed hf => rw [(hr (Instr.isReceiver_of_isFramer hf)).frame]; exact .inl rfl
  | dmaProgram _ hp | packetProgram _ hp => obtain ⟨-, -, rfl⟩ := programTx_some hp; exact .inl rfl
  | fcIsr | pause | resume => rw [hc rfl]; exact .inl rfl
  | _ => exact .inl rfl

/-- Memory changes only in the frame build of a task in phase S. -/
theorem Effect.memory (h : Effect s i s') : s'.mem = s.mem ∨
    ∃ t p, (i = .sendPacket t p ∨ i = .serialize p) ∧ s.task[t]? = some (.sendPacket p .s) ∧
      s'.mem = s.mem.writeBytes s.prm.txfBase p.frame.bytes := by
  have hr := h.receiverFrame
  have hc := h.flowControlFrame
  cases h with
  | packetBuild h => exact .inr ⟨_, _, .inl rfl, h.2, rfl⟩
  | serialize h => exact .inr ⟨_, _, .inr rfl, h.2, rfl⟩
  | errorFlag | errorIrq | errorBoth | handOff | available | dispatch | poll => rw [(hr rfl).frame]; exact .inl rfl
  | feed hf => rw [(hr (Instr.isReceiver_of_isFramer hf)).frame]; exact .inl rfl
  | dmaProgram _ hp | packetProgram _ hp => obtain ⟨-, -, rfl⟩ := programTx_some hp; exact .inl rfl
  | fcIsr | pause | resume => rw [hc rfl]; exact .inl rfl
  | _ => exact .inl rfl

end Sys2Proof.Machine
end

section
/-! SUPPORT. What an operation does to the tasks and the locks (10_state.md rules R22, R27, R28 items 4 and 9), and that it
keeps the invariants of the transmit side. -/

namespace Sys2Proof.Machine

variable {i : Instr} {s s' : State} {t : Nat} {old new : TaskState}

/-! ### The record of a task is replaced -/

theorem mem_set_cases {α : Type} {l : List α} {x y : α} (h : x ∈ l.set t y) : x = y ∨ ∃ u, u ≠ t ∧ l[u]? = some x := by
  obtain ⟨u, hu⟩ := List.mem_iff_getElem?.mp h
  rw [List.getElem?_set] at hu
  split at hu
  · split at hu
    · exact .inl (by simpa using hu.symm)
    · cases hu
  · rename_i hne
    exact .inr ⟨u, Ne.symm hne, hu⟩

theorem forall_mem_of_forall_mem_set {α : Type} {l : List α} {x y : α} {P : α → Prop} (hx : l[t]? = some x) (hP : P x)
    (h : ∀ z ∈ l.set t y, P z) : ∀ z ∈ l, P z := by
  intro z hz
  obtain ⟨u, hu⟩ := List.mem_iff_getElem?.mp hz
  by_cases hut : u = t
  · subst hut
    rw [hx] at hu
    cases hu; exact hP
  · exact h z (List.mem_iff_getElem?.mpr ⟨u, by rw [List.getElem?_set_ne (Ne.symm hut)]; exact hu⟩)

theorem lt_length_of_getElem?_eq_some {α : Type} {l : List α} {x : α} (h : l[t]? = some x) : t < l.length :=
  (List.getElem?_eq_some_iff.mp h).1

/-! ### Locks -/

/-- How a lock moves in a step of task `t` that held it (`old`) or not and then holds it (`new`) or not. -/
inductive LockMove (t : Nat) (old new : Bool) (l l' : Lock) : Prop where
  | keep (h : new = old) (hl : l' = l)
  | acquire (h : new = true) (hl : l = .free) (hl' : l' = .held t)
  | release (ho : old = true) (hn : new = false) (hl' : l' = .free)

theorem LockMove.keeps_matches {l l' : Lock} {task : List TaskState} {holds : TaskState → Bool}
    (hm : LockMove t (holds old) (holds new) l l') (ht : task[t]? = some old) (h : LockMatches l task holds) :
    LockMatches l' (task.set t new) holds := by
  obtain ⟨hname, hiff⟩ := h
  have hlt := lt_length_of_getElem?_eq_some ht
  have hself : holds old = true ↔ l = .held t := by simpa [ht] using hiff t hlt
  refine ⟨?names, fun u hu => ?_⟩
  case names =>
    rw [List.length_set]
    cases hm with
    | keep _ hl => rw [hl]; exact hname
    | acquire _ _ hl' => rw [hl']; exact decide_eq_true hlt
    | release _ _ hl' => rw [hl']; rfl
  rw [List.length_set] at hu
  have hother := hiff u hu
  by_cases hut : u = t
  · subst hut
    simp only [List.getElem?_set_self hlt, Option.any_some]
    cases hm with
    | keep h hl => rw [h, hl]; exact hself
    | acquire h _ hl' => simp [h, hl']
    | release _ hn hl' => simp [hn, hl']
  · rw [List.getElem?_set_ne (Ne.symm hut)]
    cases hm with
    | keep _ hl => rw [hl]; exact hother
    | acquire _ hl hl' => rw [hother, hl, hl']; simp [Ne.symm hut]
    | release ho _ hl' => rw [hother, hself.mp ho, hl']; simp [Ne.symm hut]

/-- Task `t` goes from the record `old` to `new`: nothing else of the tasks changes, its locals stay in range, and each lock
moves with it. -/
structure TaskMove (s : State) (t : Nat) (old new : TaskState) (s' : State) : Prop where
  was : s.task[t]? = some old
  task : s'.task = s.task.set t new
  locals : old.localsOk s.prm = true → new.localsOk s.prm = true
  txLock : LockMove t old.holdsTxLock new.holdsTxLock s.tx_lock s'.tx_lock
  sendMutex : LockMove t old.holdsSendMutex new.holdsSendMutex s.send_mutex s'.send_mutex

/-- An operation leaves tasks and locks alone, or moves its caller. -/
theorem Effect.tasks (h : Effect s i s') :
    (s'.task = s.task ∧ s'.tx_lock = s.tx_lock ∧ s'.send_mutex = s.send_mutex) ∨
    ∃ t old new, i.caller s = some t ∧ TaskMove s t old new s' := by
  have hr := h.receiverFrame
  have hc := h.flowControlFrame
  cases h with
  | lowRateEntry h _ hb =>
    exact .inr ⟨_, _, _, rfl, h.2, rfl, fun _ => decide_eq_true (List.length_pos_iff.mpr hb), .keep rfl rfl, .keep rfl rfl⟩
  | @lowRateByte t bytes k b h _ _ =>
    refine .inr ⟨_, _, _, rfl, h.2, rfl, fun hk => ?_, .keep ?_ rfl, .keep ?_ rfl⟩
    · have hk := of_decide_eq_true hk
      split
      · rfl
      · exact decide_eq_true (by omega)
    · split <;> rfl
    · split <;> rfl
  | dmaEntry h _ hn hw =>
    exact .inr ⟨_, _, _, rfl, h.2, rfl, fun _ => by simpa [TaskState.localsOk, hw] using hn, .keep rfl rfl, .keep rfl rfl⟩
  | dmaLock h hl | packetLock h hl => exact .inr ⟨_, _, _, rfl, h.2, rfl, id, .acquire rfl hl rfl, .keep rfl rfl⟩
  | dmaProgram h hp | packetProgram h hp =>
    obtain ⟨-, -, rfl⟩ := programTx_some hp
    exact .inr ⟨_, _, _, rfl, h.2, rfl, id, .keep rfl rfl, .keep rfl rfl⟩
  | dmaTake h | packetTake h => exact .inr ⟨_, _, _, rfl, h.2, rfl, id, .keep rfl rfl, .keep rfl rfl⟩
  | dmaReturn h => exact .inr ⟨_, _, _, rfl, h.2, rfl, fun _ => rfl, .release rfl rfl rfl, .keep rfl rfl⟩
  | packetEntry h hp hm =>
    exact .inr ⟨_, _, _, rfl, h.2, rfl, fun _ => by simp [TaskState.localsOk, hp, hm], .keep rfl rfl, .keep rfl rfl⟩
  | packetMutex h hl => exact .inr ⟨_, _, _, rfl, h.2, rfl, id, .keep rfl rfl, .acquire rfl hl rfl⟩
  | packetBuild h | packetDma0 h =>
    exact .inr ⟨_, _, _, rfl, h.2, rfl, id, .keep (by split <;> rfl) rfl, .keep (by split <;> rfl) rfl⟩
  | serialize h hl =>
    exact .inr ⟨_, _, _, by simp only [Instr.caller, hl], h.2, rfl, id, .keep (by split <;> rfl) rfl,
      .keep (by split <;> rfl) rfl⟩
  | packetUnlock h => exact .inr ⟨_, _, _, rfl, h.2, rfl, id, .release rfl rfl rfl, .keep rfl rfl⟩
  | packetReturn h => exact .inr ⟨_, _, _, rfl, h.2, rfl, fun _ => rfl, .keep rfl rfl, .release rfl rfl rfl⟩
  | recvEntry h | recvTake h | expire h => exact .inr ⟨_, _, _, rfl, h.2, rfl, fun _ => rfl, .keep rfl rfl, .keep rfl rfl⟩
  | errorFlag | errorIrq | errorBoth | handOff | available | dispatch | poll =>
    rw [(hr rfl).frame]; exact .inl ⟨rfl, rfl, rfl⟩
  | feed hf => rw [(hr (Instr.isReceiver_of_isFramer hf)).frame]; exact .inl ⟨rfl, rfl, rfl⟩
  | fcIsr | pause | resume => rw [hc rfl]; exact .inl ⟨rfl, rfl, rfl⟩
  | _ => exact .inl ⟨rfl, rfl, rfl⟩

theorem Effect.tasksOk (h : Effect s i s') (hs : s.TasksOk) : s'.TasksOk := by
  obtain ⟨hv, hlen, hloc⟩ := hs
  obtain ⟨⟨hprm, -⟩, -⟩ := h.config
  rcases h.tasks with ⟨htask, -, -⟩ | ⟨t, old, new, -, hm⟩
  · simp only [State.TasksOk, hprm, htask]
    exact ⟨hv, hlen, hloc⟩
  · simp only [State.TasksOk, hprm, hm.task, List.length_set]
    refine ⟨hv, hlen, fun x hx => ?_⟩
    rcases List.mem_or_eq_of_mem_set hx with hx | rfl
    · exact hloc x hx
    · exact hm.locals (hloc old (List.mem_of_getElem? hm.was))

theorem Effect.locksOk (h : Effect s i s') (hs : s.LocksOk) : s'.LocksOk := by
  obtain ⟨htx, hsend⟩ := hs
  rcases h.tasks with ⟨htask, hl, hm⟩ | ⟨t, old, new, -, hm⟩
  · simp only [State.LocksOk, htask, hl, hm]
    exact ⟨htx, hsend⟩
  · rw [State.LocksOk, hm.task]
    exact ⟨hm.txLock.keeps_matches hm.was htx, hm.sendMutex.keeps_matches hm.was hsend⟩

/-! ### The awaited transfer -/

theorem TaskState.holdsTxLock_of_awaitsTx {ts : TaskState} (h : ts.awaitsTx = true) : ts.holdsTxLock = true := by
  cases ts <;> simp_all [TaskState.awaitsTx, TaskState.holdsTxLock]

/-- Beside the holder of `tx_lock` no task awaits a transfer. -/
theorem LocksOk.others_quiet (hl : s.LocksOk) (ht : s.task[t]? = some old) (hold : old.holdsTxLock = true) {u : Nat}
    {x : TaskState} (hu : s.task[u]? = some x) (hut : u ≠ t) : x.awaitsTx = false := by
  have hiff := hl.1.2
  by_contra hx
  have hx := TaskState.holdsTxLock_of_awaitsTx (Bool.of_not_eq_false hx)
  have h1 : s.tx_lock = .held t := (hiff t (lt_length_of_getElem?_eq_some ht)).mp (by simpa [ht] using hold)
  have h2 : s.tx_lock = .held u := (hiff u (lt_length_of_getElem?_eq_some hu)).mp (by simpa [hu] using hx)
  exact hut (by simpa [h1] using h2.symm)

theorem TransferAwaited.signs_le_one (h : s.TransferAwaited) :
    s.tx_en.toNat + s.is_paused.toNat + s.tx_tcif.toNat + s.tx_done.toNat ≤ 1 := by
  obtain ⟨hsome, hnone⟩ := h
  change s.transferSigns ≤ 1
  by_cases hq : ∀ ts ∈ s.task, ts.awaitsTx = false
  · simp [hnone hq]
  · push Not at hq
    obtain ⟨ts, hts, hw⟩ := hq
    obtain ⟨-, hone, -⟩ := hsome ts hts (by simpa using hw)
    exact hone.le

/-- Of four signs that are at most one together, one that stands stands alone. -/
theorem alone_of_sum_le_one {a b c d : Bool} (h : a.toNat + b.toNat + c.toNat + d.toNat ≤ 1) (ha : a = true) :
    b = false ∧ c = false ∧ d = false := by
  subst ha
  cases b <;> cases c <;> cases d <;> simp_all

theorem TransferAwaited.only_active (h : s.TransferAwaited) (hx : s.tx_en = true) :
    s.is_paused = false ∧ s.tx_tcif = false ∧ s.tx_done = false :=
  alone_of_sum_le_one (by have := signs_le_one h; omega) hx

theorem TransferAwaited.only_paused (h : s.TransferAwaited) (hx : s.is_paused = true) :
    s.tx_en = false ∧ s.tx_tcif = false ∧ s.tx_done = false :=
  alone_of_sum_le_one (by have := signs_le_one h; omega) hx

theorem TransferAwaited.only_completed (h : s.TransferAwaited) (hx : s.tx_tcif = true) :
    s.tx_en = false ∧ s.is_paused = false ∧ s.tx_done = false :=
  alone_of_sum_le_one (by have := signs_le_one h; omega) hx

theorem TransferAwaited.only_signalled (h : s.TransferAwaited) (hx : s.tx_done = true) :
    s.tx_en = false ∧ s.is_paused = false ∧ s.tx_tcif = false :=
  alone_of_sum_le_one (by have := signs_le_one h; omega) hx

/-- While the holder of `tx_lock` is outside phase D no sign of a transfer stands. -/
theorem TransferAwaited.no_sign (h : s.TransferAwaited) (hl : s.LocksOk) (ht : s.task[t]? = some old)
    (hold : old.holdsTxLock = true) (hq : old.awaitsTx = false) : s.transferSigns = 0 := by
  refine h.2 fun x hx => ?_
  obtain ⟨u, hu⟩ := List.mem_iff_getElem?.mp hx
  by_cases hut : u = t
  · subst hut
    rw [ht] at hu
    cases hu; exact hq
  · exact LocksOk.others_quiet hl ht hold hu hut

/-- A task that moves outside phase D leaves the awaited transfer as it was. -/
theorem TransferAwaited.setTask (h : s.TransferAwaited) (ht : s.TaskIs t old) (ho : old.awaitsTx = false)
    (hn : new.awaitsTx = false) : (s.setTask t new).TransferAwaited := by
  obtain ⟨hsome, hnone⟩ := h
  refine ⟨fun x hx hw => ?_, fun hq => hnone (forall_mem_of_forall_mem_set ht.2 ho hq)⟩
  rcases List.mem_or_eq_of_mem_set hx with hx | rfl
  · exact hsome x hx hw
  · simp [hn] at hw

/-- Phase C: the programmed transfer is the one its task awaits. -/
theorem TransferAwaited.program {s1 : State} {a : Addr} {n : Count} (h : s.TransferAwaited) (hl : s.LocksOk)
    (ht : s.TaskIs t old) (hold : old.holdsTxLock = true) (ho : old.awaitsTx = false) (hw : new.awaitsTx = true)
    (hx : new.transfer s.prm = some (a, n)) (hp : s.programTx a n = some s1) : (s1.setTask t new).TransferAwaited := by
  have hsigns := TransferAwaited.no_sign h hl ht.2 hold ho
  obtain ⟨hen, hpa, rfl⟩ := programTx_some hp
  simp only [State.transferSigns, hen] at hsigns
  constructor
  · intro x hmem hxw
    rcases mem_set_cases hmem with rfl | ⟨u, hut, hu⟩
    · refine ⟨hx, ?_, fun _ => rfl⟩
      simp only [State.transferSigns, State.setTask, Bool.toNat_true]
      simp at hsigns
      simp [hsigns]
    · simp [LocksOk.others_quiet hl ht.2 hold hu hut] at hxw
  · intro hq
    have := hq new (List.mem_set (lt_length_of_getElem?_eq_some ht.2) new)
    simp [hw] at this

/-- Phase D: the completion is taken, and no sign of the transfer is left. -/
theorem TransferAwaited.take (h : s.TransferAwaited) (hl : s.LocksOk) (ht : s.TaskIs t old)
    (hold : old.holdsTxLock = true) (hd : s.tx_done = true) (hn : new.awaitsTx = false) :
    ({ s with tx_done := false }.setTask t new).TransferAwaited := by
  obtain ⟨hen, hpa, htc⟩ := TransferAwaited.only_signalled h hd
  refine ⟨fun x hmem hxw => ?_, fun _ => by simp [State.transferSigns, hen, hpa, htc]⟩
  rcases mem_set_cases hmem with rfl | ⟨u, hut, hu⟩
  · simp [hn] at hxw
  · simp [LocksOk.others_quiet hl ht.2 hold hu hut] at hxw

/-- A step that leaves tasks and descriptor alone, moves the one sign of the transfer on, and keeps its completion
interrupt enabled. -/
theorem TransferAwaited.move (h : s.TransferAwaited) (htask : s'.task = s.task) (hprm : s'.prm = s.prm)
    (hbase : s'.tx_base = s.tx_base) (hsize : s'.tx_size = s.tx_size) (hsigns : s'.transferSigns = s.transferSigns)
    (htcie : s'.tx_done = false → (s.tx_done = false → s.tx_tcie = true) → s'.tx_tcie = true) : s'.TransferAwaited := by
  simp only [State.TransferAwaited, htask, hprm, hbase, hsize, hsigns]
  exact ⟨fun x hx hw => ⟨(h.1 x hx hw).1, (h.1 x hx hw).2.1, fun hd => htcie hd (h.1 x hx hw).2.2⟩, h.2⟩

end Sys2Proof.Machine
end

section
/-! SUPPORT. That every operation keeps the invariants of rule R28, one by one, and every step all of them. -/

namespace Sys2Proof.Machine

variable {i : Instr} {s s' : State} {t : Nat} {old new : TaskState}

/-! ### The transmit side -/

/-- A beat moves the sign of the transfer from active to completed, at the last byte. -/
theorem transferSigns_beat (h : s.TransferAwaited) (hen : s.tx_en = true) : s.beat.transferSigns = s.transferSigns := by
  obtain ⟨hpa, htc, hd⟩ := TransferAwaited.only_active h hen
  simp only [State.transferSigns, State.beat, State.emitTx, hen, hpa, htc, hd]
  split <;> rfl

theorem transferSigns_paused (h : s.TransferAwaited) : s.paused.transferSigns = s.transferSigns := by
  unfold State.paused
  split
  · rename_i hen
    obtain ⟨hpa, htc, hd⟩ := TransferAwaited.only_active h hen
    simp [State.transferSigns, hen, hpa, htc, hd]
  · rfl

theorem transferSigns_resumed (h : s.TransferAwaited) : s.resumed.transferSigns = s.transferSigns := by
  unfold State.resumed
  split
  · rename_i hpa
    obtain ⟨hen, htc, hd⟩ := TransferAwaited.only_paused h hpa
    simp [State.transferSigns, hen, hpa, htc, hd]
  · rfl

theorem TransferAwaited.paused (h : s.TransferAwaited) : s.paused.TransferAwaited := by
  have hsigns := transferSigns_paused h
  rw [paused_eq] at hsigns ⊢
  exact TransferAwaited.move h rfl rfl rfl rfl hsigns fun hd hi => hi hd

theorem TransferAwaited.resumed (h : s.TransferAwaited) : s.resumed.TransferAwaited := by
  have hsigns := transferSigns_resumed h
  rw [resumed_eq] at hsigns ⊢
  exact TransferAwaited.move h rfl rfl rfl rfl hsigns fun hd hi => by simp [hi hd]

theorem Effect.transferAwaited (h : Effect s i s') (hl : s.LocksOk) (ha : s.TransferAwaited) : s'.TransferAwaited := by
  have hr := h.receiverFrame
  cases h with
  | dmaProgram h hp | packetProgram h hp => exact TransferAwaited.program ha hl h rfl rfl rfl rfl hp
  | dmaTake h hd | packetTake h hd => exact TransferAwaited.take ha hl h rfl hd rfl
  | beat _ hen => exact TransferAwaited.move ha rfl rfl rfl rfl (transferSigns_beat ha hen) fun hd hi => hi hd
  | txTc _ htc =>
    obtain ⟨hen, hpa, hd⟩ := TransferAwaited.only_completed ha htc
    exact TransferAwaited.move ha rfl rfl rfl rfl (by simp [State.transferSigns, hen, hpa, htc, hd]) nofun
  | pause => exact TransferAwaited.paused ha
  | resume => exact TransferAwaited.resumed ha
  | fcIsr =>
    have ha : { s with fc_pend := false }.TransferAwaited := ha
    split
    · exact TransferAwaited.paused ha
    · exact TransferAwaited.resumed ha
  | lowRateEntry h | dmaEntry h | dmaLock h | dmaReturn h | packetEntry h | packetMutex h | packetLock h
  | packetUnlock h | packetReturn h | recvEntry h | recvTake h | expire h => exact TransferAwaited.setTask ha h rfl rfl
  | lowRateByte h | packetBuild h | serialize h | packetDma0 h =>
    exact TransferAwaited.setTask ha h rfl (by split <;> rfl)
  | errorFlag | errorIrq | errorBoth | handOff | available | dispatch | poll => rw [(hr rfl).frame]; exact ha
  | feed hf => rw [(hr (Instr.isReceiver_of_isFramer hf)).frame]; exact ha
  | _ => exact ha

/-- Phase C starts the stream at the first byte. -/
theorem StreamOk.program {s1 : State} {a : Addr} {n : Count} (hsigns : s.transferSigns = 0) (hn : n ≠ 0)
    (hp : s.programTx a n = some s1) : (s1.setTask t new).StreamOk := by
  obtain ⟨hen, hpa, rfl⟩ := programTx_some hp
  have hpos : 1 ≤ n.toNat := by bv_omega
  simp [State.transferSigns, hen, hpa] at hsigns
  exact ⟨fun _ => ⟨hpos, le_rfl, by simp⟩, by simp [hpa], by simp [hsigns]⟩

/-- A beat moves the stream on by one byte. -/
theorem StreamOk.beat (ha : s.TransferAwaited) (h : s.StreamOk) (hen : s.tx_en = true) : s.beat.StreamOk := by
  obtain ⟨hpa, htc, hd⟩ := TransferAwaited.only_active ha hen
  obtain ⟨hpos, hle, hptr⟩ := h.1 hen
  refine ⟨fun hen' => ?active, fun hpa' => ?paused, fun hdone => ?done⟩
  case active =>
    have hne : s.tx_count - 1 ≠ 0 := by
      intro h0
      simp only [State.beat, h0, if_true] at hen'
      cases hen'
    refine ⟨?_, ?_, ?_⟩ <;> simp only [State.beat, State.emitTx_tx_size, State.emitTx_tx_base]
    · bv_omega
    · bv_omega
    · rw [hptr]; bv_omega
  case paused => simp [State.beat, hpa] at hpa'
  case done =>
    by_contra hne
    simp only [State.beat, State.emitTx_tx_done] at hne hdone
    rw [if_neg hne, htc, hd] at hdone
    simp at hdone

theorem StreamOk.paused (h : s.StreamOk) : s.paused.StreamOk := by
  unfold State.paused
  split
  · rename_i hen
    obtain ⟨hpos, hle, hptr⟩ := h.1 hen
    exact ⟨nofun, fun _ => ⟨rfl, hpos, hle, rfl, rfl, hptr⟩, h.2.2⟩
  · exact h

theorem StreamOk.resumed (ha : s.TransferAwaited) (h : s.StreamOk) : s.resumed.StreamOk := by
  unfold State.resumed
  split
  · rename_i hpa
    obtain ⟨-, htc, hd⟩ := TransferAwaited.only_paused ha hpa
    obtain ⟨-, hpos, hle, hinit, -, -⟩ := h.2.1 hpa
    exact ⟨fun _ => ⟨hpos, hinit ▸ hle, by simp only [State.resumePtr, hinit]⟩, nofun, by simp [htc, hd]⟩
  · exact h

theorem frameSize_ne_zero (p : Packet) : frameSize p ≠ 0 := by
  have := p.length.isLt
  unfold frameSize
  bv_omega

theorem Effect.streamOk (h : Effect s i s') (ht : s.TasksOk) (hl : s.LocksOk) (ha : s.TransferAwaited)
    (hs : s.StreamOk) : s'.StreamOk := by
  have hr := h.receiverFrame
  cases h with
  | dmaProgram h hp =>
    have hloc := ht.2.2 _ (List.mem_of_getElem? h.2)
    simp only [TaskState.localsOk, Bool.and_eq_true, bne_iff_ne] at hloc
    exact StreamOk.program (TransferAwaited.no_sign ha hl h.2 rfl rfl) hloc.1 hp
  | packetProgram h hp => exact StreamOk.program (TransferAwaited.no_sign ha hl h.2 rfl rfl) (frameSize_ne_zero _) hp
  | dmaTake | packetTake => exact ⟨hs.1, hs.2.1, fun h => hs.2.2 (h.imp_right nofun)⟩
  | beat _ hen => exact StreamOk.beat ha hs hen
  | txTc _ htc => exact ⟨hs.1, hs.2.1, fun _ => hs.2.2 (.inl htc)⟩
  | pause => exact StreamOk.paused hs
  | resume => exact StreamOk.resumed ha hs
  | fcIsr =>
    split
    · exact StreamOk.paused (s := { s with fc_pend := false }) hs
    · exact StreamOk.resumed (s := { s with fc_pend := false }) ha hs
  | errorFlag | errorIrq | errorBoth | handOff | available | dispatch | poll => rw [(hr rfl).frame]; exact hs
  | feed hf => rw [(hr (Instr.isReceiver_of_isFramer hf)).frame]; exact hs
  | _ => exact hs

/-! ### The receive side -/

theorem ReceiveOk.rxValid_le (h : s.ReceiveOk) : s.rxValid ≤ s.rx_buf.length := by
  obtain ⟨hlen, hle, -⟩ := h
  rw [hlen, State.rxValid]
  bv_omega

/-- A receive beat of a ready block takes one from what remains. -/
theorem ReceiveOk.stored (h : s.ReceiveOk) (hr : s.ready = true) (he : s.rx_en = true) (b : Byte) :
    (s.stored b).ReceiveOk := by
  obtain ⟨hlen, hle, hen⟩ := h
  have hpos : 0 < s.rx_remaining.toNat := by simpa [he] using hen hr
  refine ⟨by simpa [State.stored] using hlen, ?le, fun _ => ?enabled⟩
  case le =>
    simp only [State.stored]
    bv_omega
  case enabled =>
    by_cases h0 : s.rx_remaining - 1 = 0
    · simp only [State.stored, h0, if_true]
      rfl
    · simp only [State.stored, if_neg h0, he]
      exact (decide_eq_true (by bv_omega)).symm

theorem Effect.receiveOk (h : Effect s i s') (ht : s.TasksOk) (hs : s.ReceiveOk) : s'.ReceiveOk := by
  have hx := h.transmitterFrame
  have hcap : 0 < s.prm.rxbufCap.toNat := ht.1.1
  cases h with
  | init => exact ⟨hs.1, le_rfl, fun _ => (decide_eq_true hcap).symm⟩
  | handOff =>
    rw [clearCause_eq]
    exact ⟨by simpa [State.handOff] using hs.1, le_rfl, fun _ => (decide_eq_true hcap).symm⟩
  | rxBoth _ hr _ he => exact ReceiveOk.stored (s := s.latchIf _ _) hs hr he _
  | errorBoth _ hr _ he =>
    rw [setLineError_eq]
    exact ReceiveOk.stored hs hr he _
  | errorFlag | errorIrq => rw [setLineError_eq]; exact hs
  | available => rw [drained_eq]; exact hs
  | dispatch => rw [dispatched_eq]; exact hs
  | feed _ _ h1 => rw [(feedBytes_frame h1).frame]; exact hs
  | poll _ h1 => rw [(feedBytes_frame h1).frame, polled_eq]; exact hs
  | dmaProgram | packetProgram | fcIsr | pause | resume => rw [(hx rfl).frame]; exact hs
  | _ => exact hs

/-- What item 5 says of `rx_tcif`, beside what `ReceiveOk` says of the stream. -/
def State.TcifOk (s : State) : Prop := s.ready = true → s.rx_tcif = true → s.rx_remaining = 0

theorem item5_iff (h : s.ReceiveOk) : s.Item5 ↔ s.TcifOk :=
  ⟨fun h5 hr => (h5.2 hr).2, fun ht => ⟨h.2.1, fun hr => ⟨h.2.2 hr, ht hr⟩⟩⟩

/-- A beat into an enabled stream finds `rx_tcif` clear, and sets it with the last byte. -/
theorem TcifOk.stored (h : s.ReceiveOk) (ht : s.TcifOk) (hr : s.ready = true) (he : s.rx_en = true) (b : Byte) :
    (s.stored b).TcifOk := by
  have hpos : 0 < s.rx_remaining.toNat := by simpa [he] using h.2.2 hr
  intro _ htc
  simp only [State.stored] at htc ⊢
  split at htc
  · assumption
  · simp [ht hr htc] at hpos

theorem Effect.tcifOk (h : Effect s i s') (hs : s.ReceiveOk) (ht : s.TcifOk)
    (hi : i = .rxCompleteIsr .idle → s.rx_tcif = false) : s'.TcifOk := by
  have hx := h.transmitterFrame
  cases h with
  | init => exact fun _ => nofun
  | @handOff c =>
    rw [clearCause_eq]
    intro _ htc
    cases c with
    | tc => simp [State.handOff] at htc
    | idle => simp [State.handOff, hi rfl] at htc
  | rxBoth _ hr _ he => exact TcifOk.stored (s := s.latchIf _ _) hs ht hr he _
  | @errorBoth _ b _ _ hr _ he =>
    rw [setLineError_eq]
    exact TcifOk.stored hs ht hr he b
  | errorFlag | errorIrq => rw [setLineError_eq]; exact ht
  | available => rw [drained_eq]; exact ht
  | dispatch => rw [dispatched_eq]; exact ht
  | feed _ _ h1 => rw [(feedBytes_frame h1).frame]; exact ht
  | poll _ h1 => rw [(feedBytes_frame h1).frame, polled_eq]; exact ht
  | dmaProgram | packetProgram | fcIsr | pause | resume => rw [(hx rfl).frame]; exact ht
  | _ => exact ht

/-- The service of `TC` that raises no fault: it clears `rx_tcif`, or waits where the block is not ready or the flag is
clear. -/
theorem tcifOk_of_tc_service (ha : s.ArmedIsReady) (h : exec (.rxCompleteIsr .tc) s = .next s') (hf : s'.fault = none) :
    s'.TcifOk := by
  change irqStep s s.rx_tcif _ = _ at h
  by_cases hrun : s.fault = none ∧ s.armed = true ∧ s.rx_tcif = true
  · obtain ⟨hf0, harm, htc⟩ := hrun
    rw [irqStep_run hf0 harm htc] at h
    split at h
    · cases h; cases hf
    · split at h
      · cases h; exact fun _ => nofun
      · cases h
  · rcases irqStep_next h with rfl | ⟨hf0, harm, htc, -⟩
    · exact fun hr htc => absurd ⟨hf, ha.trans hr, htc⟩ hrun
    · exact absurd ⟨hf0, harm, htc⟩ hrun

theorem Effect.framerOk (h : Effect s i s') (hs : s.FramerOk) : s'.FramerOk := by
  cases hi : i.isFramer with
  | true =>
    cases h with
    | feed _ _ h1 => exact feedBytes_keeps hs h1
    | poll _ h1 =>
      have hp : s.polled.FramerOk := by rw [polled_eq]; exact hs
      exact feedBytes_keeps hp h1
    | offerOverrun => exact hs
    | _ => cases hi
  | false =>
    have hregs := h.framerRegs hi
    obtain ⟨⟨hprm, -⟩, -⟩ := h.config
    simp only [State.framerRegs, Prod.mk.injEq] at hregs
    obtain ⟨hfs, -, hlen, hdata, hidx, -, -⟩ := hregs
    simp only [State.FramerOk, hfs, hlen, hdata, hidx, hprm]
    exact hs

theorem pushByteq_length_le {q : List Byte} (h : q.length ≤ byteqCap) (b : Byte) : (pushByteq q b).length ≤ byteqCap := by
  unfold pushByteq
  split
  · simp; omega
  · exact h

theorem length_drop_if_le {c : Bool} {q : List Byte} {n cap : Nat} (h : q.length ≤ cap) :
    (if c then q.drop n else q).length ≤ cap := by
  split
  · simp; omega
  · exact h

theorem Effect.queuesOk (h : Effect s i s') (hs : s.QueuesOk) : s'.QueuesOk := by
  have hx := h.transmitterFrame
  obtain ⟨hq, hst⟩ := hs
  cases h with
  | rxne =>
    refine ⟨?_, hst⟩
    simp only
    split
    · exact pushByteq_length_le hq _
    · exact hq
  | recvTake _ hb =>
    rw [hb] at hq
    exact ⟨Nat.le_of_succ_le hq, hst⟩
  | handOff _ _ _ ho =>
    rw [clearCause_eq]
    refine ⟨hq, ?_⟩
    simp only [State.handOff, List.length_append, List.length_take]
    omega
  | available => rw [drained_eq]; exact ⟨hq, length_drop_if_le hst⟩
  | poll _ h1 => rw [(feedBytes_frame h1).frame, polled_eq]; exact ⟨hq, length_drop_if_le hst⟩
  | feed _ _ h1 => rw [(feedBytes_frame h1).frame]; exact ⟨hq, hst⟩
  | errorFlag | errorIrq | errorBoth => rw [setLineError_eq]; exact ⟨hq, hst⟩
  | dispatch => rw [dispatched_eq]; exact ⟨hq, hst⟩
  | dmaProgram | packetProgram | fcIsr | pause | resume => rw [(hx rfl).frame]; exact ⟨hq, hst⟩
  | _ => exact ⟨hq, hst⟩

/-! ### The whole block -/

theorem Effect.armedIsReady (h : Effect s i s') (hs : s.ArmedIsReady) : s'.ArmedIsReady := by
  obtain ⟨-, ⟨hr, ha, -⟩ | ⟨-, rfl⟩, -⟩ := h.config
  · rw [State.ArmedIsReady, hr, ha]; exact hs
  · rfl

theorem Effect.memWf (h : Effect s i s') (hs : s.mem.Wf) : s'.mem.Wf := by
  rcases h.memory with hm | ⟨t, p, -, -, hm⟩
  · rw [hm]; exact hs
  · rw [hm]; exact Memory.writeBytes_wf hs _ _

theorem Effect.inv (h : Effect s i s') (hs : s.Inv) : s'.Inv := by
  obtain ⟨ht, ha, hl, hw, hx, hr, hf, hq, hm⟩ := hs
  exact ⟨h.tasksOk ht, h.armedIsReady ha, h.locksOk hl, h.transferAwaited hl hw, h.streamOk ht hl hw hx,
    h.receiveOk ht hr, h.framerOk hf, h.queuesOk hq, h.memWf hm⟩

theorem exec_inv (hs : s.Inv) (h : exec i s = .next s') : s'.Inv := by
  rcases exec_effect h with rfl | h
  · exact hs
  · exact h.inv hs

/-- What every operation keeps and neither the schedule nor a write of the host touches, every step keeps. -/
theorem step_keeps {P : State → Prop} (hsched : ∀ s rest, P s → P { s with sched := rest })
    (hstore : ∀ s a v, P s → P { s with mem := s.mem.write a v })
    (hexec : ∀ i s s', P s → exec i s = .next s' → P s') (hs : P s) (h : step s = .next s') : P s' := by
  rcases step_cases h with ⟨-, rfl | ⟨e, rest, -, rfl⟩⟩ | ⟨i, e, rest, -, -, h⟩ | ⟨a, v, rest, -, -, -, -, -, rfl⟩
  · exact hs
  · exact hsched s rest hs
  · exact hexec i _ s' (hsched s rest hs) h
  · exact hstore { s with sched := rest } a v (hsched s rest hs)

theorem step_inv (hs : s.Inv) (h : step s = .next s') : s'.Inv :=
  step_keeps (P := State.Inv) (fun _ _ h => h)
    (fun _ a v h => by
      obtain ⟨ht, ha, hl, hw, hx, hr, hf, hq, hm⟩ := h
      exact ⟨ht, ha, hl, hw, hx, hr, hf, hq, Memory.write_wf hm a v⟩)
    (fun _ _ _ => exec_inv) hs h

end Sys2Proof.Machine
end

section
/-! SUPPORT. The obligations of 10_state.md: who writes what, what the service steps do, and the invariants of rule R28. -/

namespace Sys2Proof.Machine

variable {i : Instr} {s s' : State}

/-! ### Reset -/

theorem lockMatches_free_replicate_idle (n : Nat) {holds : TaskState → Bool} (h : holds .idle = false) :
    LockMatches .free (List.replicate n .idle) holds := by
  refine ⟨rfl, fun u hu => ?_⟩
  have hu : u < n := by simpa using hu
  simp [hu, h]

/-- Nothing runs, nothing is held and nothing is received at reset, so every clause of rule R28 stands. -/
theorem resetWith_inv {P : Params} (level : Bool) (hP : P.Valid) : (State.resetWith P level).Inv := by
  have hidle : ∀ ts ∈ (State.resetWith P level).task, ts = .idle := fun ts h => List.eq_of_mem_replicate h
  refine ⟨⟨hP, List.length_replicate, fun ts h => by rw [hidle ts h]; rfl⟩, rfl,
    ⟨lockMatches_free_replicate_idle _ rfl, lockMatches_free_replicate_idle _ rfl⟩,
    ⟨fun ts h hw => ?_, fun _ => rfl⟩, ⟨nofun, nofun, fun _ => rfl⟩,
    ⟨List.length_replicate, Nat.zero_le _, nofun⟩, ⟨List.length_replicate, nofun, nofun⟩,
    ⟨Nat.zero_le _, Nat.zero_le _⟩, ⟨.nil, nofun⟩⟩
  rw [hidle ts h] at hw
  cases hw

theorem resetWith_framesBuilt (P : Params) (level : Bool) : (State.resetWith P level).FramesBuilt := by
  intro ts h p hp
  rw [List.eq_of_mem_replicate h] at hp
  cases hp

/-! ### Service steps -/

/-- What a step that takes nothing leaves of the locks, the tasks and the rendezvous (rule R22). -/
structure OnlyGives (s s' : State) : Prop where
  txLock : s'.tx_lock = s.tx_lock
  sendMutex : s'.send_mutex = s.send_mutex
  task : s'.task = s.task
  txDone : s.tx_done = true → s'.tx_done = true
  rxDone : s.rx_done = true → s'.rx_done = true

theorem OnlyGives.refl (s : State) : OnlyGives s s := ⟨rfl, rfl, rfl, id, id⟩

/-- The outcome is a next state, reached by giving only. -/
def CompletesGiving (s : State) (o : Out) : Prop := ∃ s', o = .next s' ∧ OnlyGives s s'

theorem CompletesGiving.next (h : OnlyGives s s') : CompletesGiving s (.next s') := ⟨s', rfl, h⟩

theorem CompletesGiving.irqStep {p : Bool} {k : Out} (h : CompletesGiving s k) : CompletesGiving s (irqStep s p k) := by
  unfold Machine.irqStep
  split
  · exact h
  · exact .next (.refl s)

theorem CompletesGiving.liveStep {k : Out} (h : CompletesGiving s k) : CompletesGiving s (liveStep s k) := by
  unfold Machine.liveStep
  split
  · exact .next (.refl s)
  · exact h

theorem OnlyGives.paused (h : OnlyGives s s') : OnlyGives s s'.paused := by
  rw [paused_eq]; exact ⟨h.txLock, h.sendMutex, h.task, h.txDone, h.rxDone⟩

theorem OnlyGives.resumed (h : OnlyGives s s') : OnlyGives s s'.resumed := by
  rw [resumed_eq]; exact ⟨h.txLock, h.sendMutex, h.task, h.txDone, h.rxDone⟩

theorem readPrefix_rxValid (h : s.ReceiveOk) : readPrefix s.rx_buf s.rxValid = some (s.rx_buf.take s.rxValid) :=
  readPrefix_some.mpr ⟨ReceiveOk.rxValid_le h, rfl⟩

theorem exec_service_completes (hi : i.isIrq = true) (hs : s.ReceiveOk) : CompletesGiving s (exec i s) := by
  cases i with
  | rxneIsr => exact .irqStep (.next ⟨rfl, rfl, rfl, id, id⟩)
  | rxCompleteIsr c =>
    refine .irqStep ?_
    split
    · exact .next ⟨rfl, rfl, rfl, id, id⟩
    · rw [readPrefix_rxValid hs, clearCause_eq]
      exact .next ⟨rfl, rfl, rfl, id, fun _ => rfl⟩
  | txTcIsr => exact .irqStep (.next ⟨rfl, rfl, rfl, fun _ => rfl, id⟩)
  | fcIsr =>
    have hack : OnlyGives s { s with fc_pend := false } := ⟨rfl, rfl, rfl, id, id⟩
    refine .irqStep (.next ?_)
    split
    · exact hack.paused
    · exact hack.resumed
  | pauseTx => exact .liveStep (.next (.paused (.refl s)))
  | resumeTx => exact .liveStep (.next (.resumed (.refl s)))
  | _ => cases hi

/-! ### Memory -/

theorem Frame.bytes_length (f : Frame) : f.bytes.length = f.data.length + 6 := by
  simp [Frame.bytes]

/-- The frame of a Packet within `MTU` ends inside `txf`. -/
theorem frame_bytes_length_le {p : Packet} {P : Params} (h : p.wf = true) (hm : p.length ≤ P.mtu) :
    p.frame.bytes.length ≤ P.mtu.toNat + 6 := by
  have hlen : p.frame.data.length = p.length.toNat := eq_of_beq h
  have hle : p.length.toNat ≤ P.mtu.toNat := hm
  rw [Frame.bytes_length]
  omega

/-- The frame build writes inside `txf` only. -/
theorem read_frame_outside {m : Memory} {P : Params} {p : Packet} (hm : m.Wf) (hP : P.Valid) (hp : p.wf = true)
    (hl : p.length ≤ P.mtu) {a : Addr}
    (ha : a.toNat < P.txfBase.toNat ∨ P.txfBase.toNat + P.mtu.toNat + 6 ≤ a.toNat) :
    (m.writeBytes P.txfBase p.frame.bytes).read a = m.read a := by
  have hlen := frame_bytes_length_le hp hl
  obtain ⟨-, -, -, hfit, -⟩ := hP
  rw [Memory.read_writeBytes hm _ _ _ (by omega), if_neg (by omega)]

/-! ### Item 5 -/

/-- A full stream whose two causes are both pending, with the service of `IDLE` offered (rule R74 corner case (c), vector
Y20). -/
def idleServedFirst : State := { State.reset with
  ready := true
  armed := true
  rx_tcif := true
  idle := true
  sched := [.op .op [0x21, 1]] }

theorem idleServedFirst_inv : idleServedFirst.Inv := by
  obtain ⟨ht, -, hl, hw, hx, ⟨hlen, hle, -⟩, hf, hq, hm⟩ := resetWith_inv (P := Params.pv) false (by decide)
  exact ⟨ht, rfl, hl, hw, hx, ⟨hlen, hle, fun _ => rfl⟩, hf, hq, hm⟩

theorem step_idleServedFirst : step idleServedFirst = .next { idleServedFirst with
    idle := false
    diag_log := [.rxCheck 16]
    stage := List.replicate 16 0
    rx_remaining := 16
    rx_en := true
    rx_done := true
    sched := [] } := rfl

theorem step_tcifOk (hs : s.Inv) (ht : s.TcifOk) (hi : s.nextInstr = some (.rxCompleteIsr .idle) → s.rx_tcif = false)
    (h : step s = .next s') : s'.TcifOk := by
  obtain ⟨-, -, -, -, -, hr, -⟩ := hs
  rcases step_cases h with ⟨-, rfl | ⟨e, rest, -, rfl⟩⟩ | ⟨i, e, rest, hn, -, h⟩ | ⟨a, v, rest, -, -, -, -, -, rfl⟩
  · exact ht
  · exact ht
  · rcases exec_effect h with rfl | h
    · exact ht
    · exact h.tcifOk hr ht fun hc => hi (hn.trans (congrArg some hc))
  · exact ht

theorem step_tc_service (hs : s.Inv) (hi : s.nextInstr = some (.rxCompleteIsr .tc)) (h : step s = .next s')
    (hf : s'.fault = none) : s'.TcifOk := by
  obtain ⟨-, ha, -⟩ := hs
  rcases step_cases h with ⟨hn, -⟩ | ⟨i, e, rest, hn, -, h⟩ | ⟨a, v, rest, hn, -⟩
  · simp [hi] at hn
  · obtain rfl : .rxCompleteIsr .tc = i := by simpa [hi] using hn
    exact tcifOk_of_tc_service (s := { s with sched := rest }) ha h hf
  · simp [hi] at hn

end Sys2Proof.Machine

namespace Sys2Proof

open Machine

/-- Settles O57: item by item every effect of an operation keeps the invariants, and a step is an operation, a host write
or nothing. -/
theorem stepKeepsInvariants : Obligations.StepKeepsInvariants := by
  intro s s' hs h
  have hs' := step_inv hs h
  have ⟨_, _, _, _, _, hr, _⟩ := hs
  have ⟨_, _, _, _, _, hr', _⟩ := hs'
  refine ⟨hs', fun h5 hi => ?_, fun hi hf => ?_⟩
  · exact (item5_iff hr').mpr (step_tcifOk hs ((item5_iff hr).mp h5) hi h)
  · exact (item5_iff hr').mpr (step_tc_service hs hi h hf)

/-- Settles O46: the effect of each service step, the wait of one that is not enabled included, only gives. -/
theorem serviceStepsOnlyGive : Obligations.ServiceStepsOnlyGive := by
  intro i s hi hs
  obtain ⟨s', h, hg⟩ := exec_service_completes hi hs
  exact ⟨s', h, hg.txLock, hg.sendMutex, hg.task, hg.txDone, hg.rxDone⟩

/-- Settles O47, by the two writers of the configuration. -/
theorem readyAndPinHaveOneWriter : Obligations.ReadyAndPinHaveOneWriter := by
  intro i s s' h
  rcases exec_effect h with rfl | h
  · exact ⟨id, id, fun _ => ⟨rfl, rfl, rfl⟩, fun _ => rfl⟩
  obtain ⟨-, hready, hlevel⟩ := h.config
  have hpin : (∀ level, i ≠ .fcEdge level) → s'.fc_level = s.fc_level := fun hne =>
    hlevel.resolve_right fun ⟨level, hi⟩ => hne level hi
  rcases hready with ⟨hr, ha, hc⟩ | ⟨⟨t, rfl⟩, rfl⟩
  · exact ⟨hr.trans, ha.trans, fun _ => ⟨hr, ha, hc⟩, hpin⟩
  · exact ⟨fun _ => rfl, fun _ => rfl, fun hne => absurd rfl (hne t), hpin⟩

/-- Settles O48: the frames of the other operations leave the pause state out. -/
theorem onlyFlowControlWritesThePauseState : Obligations.OnlyFlowControlWritesThePauseState := by
  intro i s s' hi h
  rcases exec_effect h with rfl | h
  · exact ⟨rfl, rfl, rfl⟩
  · exact h.pauseState hi

/-- Settles O49: an operation that is none of the framer's keeps the tuple of its registers. -/
theorem onlyTheFramerWritesItsRegisters : Obligations.OnlyTheFramerWritesItsRegisters := by
  intro i s s' hi h
  have hregs : s'.framerRegs = s.framerRegs := by
    rcases exec_effect h with rfl | h
    · rfl
    · exact h.framerRegs hi
  simpa only [State.framerRegs, Prod.mk.injEq] using hregs

/-- Settles O50: the two sides' frames say that their traces grow, and the rest touch at most the results. -/
theorem outputsAreAppendOnly : Obligations.OutputsAreAppendOnly := by
  intro i s s' h
  rcases exec_effect h with rfl | h
  · exact ⟨List.prefix_rfl, List.prefix_rfl, List.prefix_rfl, List.prefix_rfl⟩
  · exact h.traces

/-- Settles O51: of all effects only a beat and a phase of `SEND_LOW_RATE` write the wire. -/
theorem wireTakesOneByteAtATime : Obligations.WireTakesOneByteAtATime := by
  intro i s s' h hne
  rcases exec_effect h with rfl | h
  · exact absurd rfl hne
  · exact h.wire.resolve_left hne

/-- Settles O52: an operation leaves the tasks alone or replaces its caller's record. -/
theorem operationsTouchOnlyTheirCaller : Obligations.OperationsTouchOnlyTheirCaller := by
  intro i s s' h
  rcases exec_effect h with rfl | h
  · exact ⟨rfl, fun _ _ => rfl, rfl, rfl⟩
  obtain ⟨hkept, -⟩ := h.config
  rcases h.tasks with ⟨htask, -, -⟩ | ⟨t, old, new, hcaller, hm⟩
  · exact ⟨by rw [htask], fun _ _ => by rw [htask], hkept⟩
  · refine ⟨by rw [hm.task, List.length_set], fun u hu => ?_, hkept⟩
    rw [hm.task, List.getElem?_set_ne (by rintro rfl; exact hu hcaller)]

/-- Settles O53: memory changes in the frame build only, whose frame lies in `txf` because the sender's Packet is within
`MTU`. -/
theorem onlyTheFrameBuildWritesMemory : Obligations.OnlyTheFrameBuildWritesMemory := by
  intro i s s' ht hwf h
  rcases exec_effect h with rfl | h
  · exact ⟨fun _ _ => rfl, fun _ _ => rfl⟩
  rcases h.memory with hm | ⟨t, p, hi, hts, hm⟩
  · exact ⟨fun _ _ => by rw [hm], fun _ _ => hm⟩
  · obtain ⟨hP, -, hloc⟩ := ht
    have hloc := hloc _ (List.mem_of_getElem? hts)
    simp only [TaskState.localsOk, Bool.and_eq_true, decide_eq_true_eq] at hloc
    refine ⟨fun a ha => by rw [hm]; exact read_frame_outside hwf hP hloc.1 hloc.2 ha, fun hser hsend => ?_⟩
    rcases hi with rfl | rfl
    · exact absurd rfl (hsend t p)
    · exact absurd rfl (hser p)

/-- Settles O56: a lock moves with the phase of the task that moves, in every operation and so in every step. -/
theorem stepKeepsLockDiscipline : Obligations.StepKeepsLockDiscipline := by
  intro s s' hs h
  refine step_keeps (P := fun s => s.TasksOk ∧ s.LocksOk) (fun _ _ h => h) (fun _ _ _ h => h) ?_ hs h
  rintro i s s' ⟨ht, hl⟩ h
  rcases exec_effect h with rfl | h
  · exact ⟨ht, hl⟩
  · exact ⟨h.tasksOk ht, h.locksOk hl⟩

/-- Refutes O60: the service of `IDLE` re-arms a full stream and leaves `rx_tcif` pending. -/
theorem not_stepKeepsItemFiveAsWritten : ¬ Obligations.StepKeepsItemFiveAsWritten := by
  intro h
  obtain ⟨-, hready⟩ := h idleServedFirst _ idleServedFirst_inv (by decide) step_idleServedFirst
  obtain ⟨-, htcif⟩ := hready rfl
  exact absurd (htcif rfl) (by decide)

/-- Settles O2: every task is idle at reset, both locks are free and no transfer is in progress. -/
theorem invariantsHoldAtReset : Obligations.InvariantsHoldAtReset :=
  ⟨fun P level hP => ⟨resetWith_inv level hP, resetWith_framesBuilt P level⟩,
    resetWith_inv false (by decide), resetWith_framesBuilt Params.pv false⟩

end Sys2Proof
end

section
/-! SUPPORT. The obligation of 20_memory.md: a write of the host into its own memory (rule R30), one equation per branch. -/

namespace Sys2Proof.Machine

variable {s : State} {a : Addr}

theorem inRange_iff {addr : Addr} {size : Nat} :
    inRange addr size a = true ↔ addr.toNat ≤ a.toNat ∧ a.toNat < addr.toNat + size := by
  simp [inRange]

theorem inFrameBuffer_iff {P : Params} :
    inFrameBuffer P a = true ↔ P.txfBase.toNat ≤ a.toNat ∧ a.toNat < P.txfBase.toNat + P.mtu.toNat + 6 := by
  rw [inFrameBuffer, inRange_iff, Nat.add_assoc]

theorem TaskState.sends_iff {ts : TaskState} :
    ts.sends a = true ↔
      ∃ addr size ph, ts = .sendDma addr size ph ∧ addr.toNat ≤ a.toNat ∧ a.toNat < addr.toNat + size.toNat := by
  cases ts with
  | sendDma addr size ph => simp [TaskState.sends, inRange_iff]
  | _ => simp [TaskState.sends]

/-- `a` is in flight when the task of some index is inside a `SEND_DMA` whose buffer holds it (rule R127). -/
theorem any_sends_iff {tasks : List TaskState} :
    (tasks.any fun ts => ts.sends a) = true ↔
      ∃ (t : Nat) (addr : Addr) (size : Count) (ph : DmaPhase), tasks[t]? = some (.sendDma addr size ph) ∧
        addr.toNat ≤ a.toNat ∧ a.toNat < addr.toNat + size.toNat := by
  rw [List.any_eq_true]
  constructor
  · rintro ⟨ts, hmem, hsends⟩
    obtain ⟨t, ht⟩ := List.mem_iff_getElem?.mp hmem
    obtain ⟨addr, size, ph, rfl, hr⟩ := TaskState.sends_iff.mp hsends
    exact ⟨t, addr, size, ph, ht, hr⟩
  · rintro ⟨t, addr, size, ph, ht, hr⟩
    exact ⟨_, List.mem_of_getElem? ht, TaskState.sends_iff.mpr ⟨addr, size, ph, rfl, hr⟩⟩

theorem hostStore_inFrameBuffer {v : Byte} (hf : s.fault = none) (hb : inFrameBuffer s.prm a = true) :
    hostStore a v s = .refused (.frameBufferWrite a) := by
  rw [hostStore, liveStep_run hf, if_pos hb]

theorem hostStore_inFlight {v : Byte} (hf : s.fault = none) (hb : ¬ inFrameBuffer s.prm a = true)
    (ht : (s.task.any fun ts => ts.sends a) = true) : hostStore a v s = .refused (.bufferInFlight a) := by
  rw [hostStore, liveStep_run hf, if_neg hb, if_pos ht]

theorem hostStore_free {v : Byte} (hf : s.fault = none) (hb : ¬ inFrameBuffer s.prm a = true)
    (ht : ¬ (s.task.any fun ts => ts.sends a) = true) :
    hostStore a v s = .next { s with mem := s.mem.write a v } := by
  rw [hostStore, liveStep_run hf, if_neg hb, if_neg ht]

end Sys2Proof.Machine

namespace Sys2Proof

open Machine

/-- Settles O42, by the three branches of a host write: `txf`, a buffer in flight, and a byte of the host's own. -/
theorem hostWritesItsOwnMemory : Obligations.HostWritesItsOwnMemory := by
  intro s a v rest hwf hs hf
  rw [step_of_sched_cons hs]
  refine ⟨fun htxf => hostStore_inFrameBuffer hf (inFrameBuffer_iff.mpr htxf), fun hout => ?_⟩
  have hb : ¬ inFrameBuffer s.prm a = true := by
    rw [inFrameBuffer_iff]
    omega
  refine ⟨fun hsent => hostStore_inFlight hf hb (any_sends_iff.mpr hsent), fun hfree => ?_⟩
  have ht : ¬ (s.task.any fun ts => ts.sends a) = true := by
    rw [any_sends_iff]
    rintro ⟨t, addr, size, ph, hts, hr⟩
    have := hfree t addr size ph hts
    omega
  refine ⟨_, hostStore_free hf hb ht, rfl, ?_, fun a' hne => ?_⟩
  · rw [Memory.read_write hwf, if_pos rfl]
  · rw [Memory.read_write hwf, if_neg hne]

end Sys2Proof
end

section
/-! SUPPORT. Operation words both ways (30_encoding.md rules R40, R49; log entry 3): per format, what the decoder makes of
an encoded operation, and that a word it accepts is the encoding of what it answers. -/

namespace Sys2Proof

variable {i : Instr} {rest w : List Byte}

/-! ### A reader on its encoded operand -/

theorem withCause_causeByte (c : RxCause) (w : List Byte) (k : RxCause → List Byte → Decoded) :
    withCause (causeByte c :: w) k = k c w := by
  cases c <;> rfl

theorem withDraw_drawByte (r : RxDraw) (w : List Byte) (k : RxDraw → List Byte → Decoded) :
    withDraw (drawByte r :: w) k = k r w := by
  cases r <;> rfl

theorem withLineError_lineErrorByte (e : LineError) (w : List Byte) (k : LineError → List Byte → Decoded) :
    withLineError (lineErrorByte e :: w) k = k e w := by
  cases e <;> rfl

theorem withDataDraw_dataDrawBytes (d : Option Byte) (w : List Byte) (k : Option Byte → List Byte → Decoded) :
    withDataDraw (dataDrawBytes d ++ w) k = k d w := by
  cases d <;> rfl

theorem withLevel_levelByte (level : Bool) (w : List Byte) (k : Bool → List Byte → Decoded) :
    withLevel (levelByte level :: w) k = k level w := by
  cases level <;> rfl

theorem withU32_u32Bytes_toNat (v : BitVec 32) (w : List Byte) (k : Nat → List Byte → Decoded) :
    withU32 (u32Bytes v.toNat ++ w) k = k v.toNat w :=
  withU32_u32Bytes v.isLt w k

theorem fitsU32_iff {n : Nat} : fitsU32 n = true ↔ n < 2 ^ 32 := decide_eq_true_iff

/-! ### A word that was encoded -/

/-- The operands of an `OP` row are read back, whatever follows them. -/
theorem decodeOp_encode (hf : i.format = .op) (hwf : i.wf = true) : decodeOp (encode i ++ rest) = .ok (i, rest) := by
  cases i with
  | framerPoll | feed | rxneIsr | txTcIsr | fcIsr | pauseTx | resumeTx | txBeat | rxIdle | txEmpty =>
    exact decodeOp_code _ _
  | init t | timeoutExpire t =>
    simp only [encode, List.cons_append, decodeOp_code, decodeOperands, withU32_u32Bytes (fitsU32_iff.mp hwf)]
  | sendDma t addr size =>
    simp only [encode, List.cons_append, List.append_assoc, decodeOp_code, decodeOperands,
      withU32_u32Bytes (fitsU32_iff.mp hwf), withU32_u32Bytes_toNat, BitVec.ofNat_toNat, BitVec.setWidth_eq]
  | recvTimeout t n | getAvailable t n =>
    obtain ⟨ht, hn⟩ := Bool.and_eq_true_iff.mp hwf
    simp only [encode, List.cons_append, List.append_assoc, decodeOp_code, decodeOperands,
      withU32_u32Bytes (fitsU32_iff.mp ht), withU32_u32Bytes (fitsU32_iff.mp hn)]
  | sendLowRate t bytes =>
    obtain ⟨ht, hn⟩ := Bool.and_eq_true_iff.mp hwf
    simp only [encode, List.cons_append, List.append_assoc, decodeOp_code, decodeOperands,
      withU32_u32Bytes (fitsU32_iff.mp ht), withU32_u32Bytes (fitsU32_iff.mp hn), withBytes_append]
  | sendPacket t p =>
    obtain ⟨ht, hp⟩ := Bool.and_eq_true_iff.mp hwf
    simp only [encode, List.cons_append, List.append_assoc, decodeOp_code, decodeOperands,
      withU32_u32Bytes (fitsU32_iff.mp ht), withPacket_packetBytes hp]
  | dispatch p => simp only [encode, List.cons_append, decodeOp_code, decodeOperands, withPacket_packetBytes hwf]
  | rxCompleteIsr c =>
    simp only [encode, List.cons_append, decodeOp_code, decodeOperands, withCause_causeByte,
      List.nil_append]
  | rxByte b r =>
    simp only [encode, List.cons_append, decodeOp_code, decodeOperands, withByte_cons, withDraw_drawByte,
      List.nil_append]
  | rxError kind d r =>
    simp only [encode, List.cons_append, List.append_assoc, decodeOp_code, decodeOperands,
      withLineError_lineErrorByte, withDataDraw_dataDrawBytes, withDraw_drawByte, List.nil_append]
  | fcEdge level =>
    simp only [encode, List.cons_append, decodeOp_code, decodeOperands, withLevel_levelByte, List.nil_append]
  | feedWaitStart1Sync | feedWaitStart1Other | feedWaitStart2Sync | feedWaitStart2Other | feedWaitTypeAny
  | feedWaitLengthOversize | feedWaitLengthZero | feedWaitLengthData | feedWaitDataMore | feedWaitDataLast
  | feedWaitChecksum1Match | feedWaitChecksum1Mismatch | feedWaitChecksum2Match | feedWaitChecksum2Mismatch
  | frame | serialize => cases hf

/-- A `FEED` row is named by its two bytes, the converse of `feedRow_ok`. -/
theorem feedRow_encode (hf : i.format = .feed) (hwf : i.wf = true) :
    ∃ b selector, encode i = [b, selector] ∧ feedRow selector b = .ok i := by
  cases i with
  | feedWaitStart1Sync | feedWaitStart2Sync | feedWaitLengthZero | feedWaitTypeAny | feedWaitLengthOversize
  | feedWaitDataMore | feedWaitDataLast | feedWaitChecksum1Match | feedWaitChecksum1Mismatch
  | feedWaitChecksum2Match | feedWaitChecksum2Mismatch => exact ⟨_, _, rfl, rfl⟩
  | feedWaitStart1Other b | feedWaitStart2Other b | feedWaitLengthData b =>
    have hb := bne_iff_ne.mp hwf
    exact ⟨_, _, rfl, by simpa [feedRow] using hb⟩
  | init | sendLowRate | sendDma | recvTimeout | getAvailable | sendPacket | framerPoll | feed | dispatch | rxneIsr
  | rxCompleteIsr | txTcIsr | fcIsr | pauseTx | resumeTx | txBeat | rxByte | rxError | rxIdle | fcEdge | txEmpty
  | timeoutExpire | frame | serialize => cases hf

/-- A `FEED` word is read back, whatever follows it. -/
theorem decodeFeed_encode (hf : i.format = .feed) (hwf : i.wf = true) :
    decodeFeed (encode i ++ rest) = .ok (i, rest) := by
  obtain ⟨b, selector, he, hrow⟩ := feedRow_encode hf hwf
  simp only [he, decodeFeed, List.cons_append, List.nil_append, withByte_cons, hrow]

/-! ### A word that was accepted -/

/-- What the operands of an `OP` row decode to is encoded by that row's OPID and those operands. -/
theorem decodeOperands_ok {o : Opid} (h : decodeOperands o w = .ok (i, rest)) :
    i.wf = true ∧ i.format = .op ∧ o.code :: w = encode i ++ rest := by
  unfold decodeOperands at h
  cases o with
  | framerPoll | rxneIsr | txTcIsr | fcIsr | pauseTx | resumeTx | txBeat | rxIdle | txEmpty =>
    cases h
    exact ⟨rfl, rfl, rfl⟩
  | init | timeoutExpire =>
    obtain ⟨t, w1, ht, rfl, h1⟩ := withU32_ok h
    cases h1
    exact ⟨fitsU32_iff.mpr ht, rfl, rfl⟩
  | recvTimeout | getAvailable =>
    obtain ⟨t, w1, ht, rfl, h1⟩ := withU32_ok h
    obtain ⟨n, w2, hn, rfl, h2⟩ := withU32_ok h1
    cases h2
    exact ⟨Bool.and_eq_true_iff.mpr ⟨fitsU32_iff.mpr ht, fitsU32_iff.mpr hn⟩, rfl, by simp [encode]⟩
  | sendLowRate =>
    obtain ⟨t, w1, ht, rfl, h1⟩ := withU32_ok h
    obtain ⟨n, w2, hn, rfl, h2⟩ := withU32_ok h1
    obtain ⟨bytes, w3, rfl, rfl, h3⟩ := withBytes_ok h2
    cases h3
    exact ⟨Bool.and_eq_true_iff.mpr ⟨fitsU32_iff.mpr ht, fitsU32_iff.mpr hn⟩, rfl, by simp [encode]⟩
  | sendDma =>
    obtain ⟨t, w1, ht, rfl, h1⟩ := withU32_ok h
    obtain ⟨addr, w2, ha, rfl, h2⟩ := withU32_ok h1
    obtain ⟨size, w3, hs, rfl, h3⟩ := withU32_ok h2
    cases h3
    exact ⟨fitsU32_iff.mpr ht, rfl, by
      simp only [encode, BitVec.toNat_ofNat, Nat.mod_eq_of_lt ha, Nat.mod_eq_of_lt hs, List.cons_append,
        List.append_assoc]⟩
  | sendPacket =>
    obtain ⟨t, w1, ht, rfl, h1⟩ := withU32_ok h
    obtain ⟨p, w2, hp, rfl, h2⟩ := withPacket_ok h1
    cases h2
    exact ⟨Bool.and_eq_true_iff.mpr ⟨fitsU32_iff.mpr ht, hp⟩, rfl, by simp [encode]⟩
  | feed =>
    obtain ⟨b, w1, rfl, h1⟩ := withByte_ok h
    cases h1
    exact ⟨rfl, rfl, rfl⟩
  | dispatch =>
    obtain ⟨p, w1, hp, rfl, h1⟩ := withPacket_ok h
    cases h1
    exact ⟨hp, rfl, rfl⟩
  | rxCompleteIsr =>
    obtain ⟨c, w1, rfl, h1⟩ := withCause_ok h
    cases h1
    exact ⟨rfl, rfl, rfl⟩
  | rxByte =>
    obtain ⟨b, w1, rfl, h1⟩ := withByte_ok h
    obtain ⟨r, w2, rfl, h2⟩ := withDraw_ok h1
    cases h2
    exact ⟨rfl, rfl, rfl⟩
  | rxError =>
    obtain ⟨kind, w1, rfl, h1⟩ := withLineError_ok h
    obtain ⟨d, w2, rfl, h2⟩ := withDataDraw_ok h1
    obtain ⟨r, w3, rfl, h3⟩ := withDraw_ok h2
    cases h3
    exact ⟨rfl, rfl, by simp [encode]⟩
  | fcEdge =>
    obtain ⟨level, w1, rfl, h1⟩ := withLevel_ok h
    cases h1
    exact ⟨rfl, rfl, rfl⟩

theorem decodeOp_ok (h : decodeOp w = .ok (i, rest)) : i.wf = true ∧ i.format = .op ∧ w = encode i ++ rest := by
  cases w with
  | nil => cases h
  | cons b w' =>
    cases ho : opidOf b with
    | none => simp [decodeOp, ho] at h
    | some o =>
      obtain rfl := opidOf_some ho
      rw [decodeOp_code] at h
      exact decodeOperands_ok h

theorem decodeFeed_ok (h : decodeFeed w = .ok (i, rest)) : i.wf = true ∧ i.format = .feed ∧ w = encode i ++ rest := by
  obtain ⟨b, w1, rfl, h1⟩ := withByte_ok h
  obtain ⟨selector, w2, rfl, h2⟩ := withByte_ok h1
  cases hrow : feedRow selector b with
  | error e => simp [hrow] at h2
  | ok i' =>
    simp only [hrow] at h2
    cases h2
    obtain ⟨hwf, hf, he⟩ := feedRow_ok hrow
    exact ⟨hwf, hf, by rw [he]; rfl⟩

/-! ### The obligations -/

/-- Settles O39, format by format; a `SERIALIZE` word carries the checksum of its own packet, so it is accepted. -/
theorem decodeUndoesEncode : Obligations.DecodeUndoesEncode := by
  intro i rest hwf
  cases hf : i.format with
  | op => exact decodeOp_encode hf hwf
  | feed => exact decodeFeed_encode hf hwf
  | frameIn =>
    cases i with
    | frame f => rw [decode, encode, withFrame_bytes hwf]
    | _ => cases hf
  | frameOut =>
    cases i with
    | serialize p =>
      have hwf : p.frame.wf = true := hwf
      rw [decode, encode, withFrame_bytes hwf, if_pos (frame_checksumOk p), packet_frame_packet]
    | _ => cases hf

/-- Settles O40, format by format; a `SERIALIZE` word is accepted only with the checksum its packet has, so its frame is
that packet's. -/
theorem decodingIsUnambiguous : Obligations.DecodingIsUnambiguous := by
  intro fmt w i rest h
  unfold decode at h
  cases fmt with
  | op => exact decodeOp_ok h
  | feed => exact decodeFeed_ok h
  | frameIn =>
    obtain ⟨f, w1, hwf, rfl, h1⟩ := withFrame_ok h
    cases h1
    exact ⟨hwf, rfl, rfl⟩
  | frameOut =>
    obtain ⟨f, w1, hwf, rfl, h1⟩ := withFrame_ok h
    by_cases hck : f.checksumOk = true
    · rw [if_pos hck] at h1
      cases h1
      exact ⟨hwf, rfl, by rw [encode, frame_of_checksumOk hck]⟩
    · rw [if_neg hck] at h1
      cases h1

/-! ### Words written out -/

/-- A table word that begins with an operation's encoding, in its format, decodes to it. -/
theorem decodeTableWord_of_encode {nbits w : Nat} {i : Instr}
    (h : i.wf = true ∧ tableFormat (tableWordBytes nbits w) = i.format ∧ encode i <+: tableWordBytes nbits w) :
    decodeTableWord nbits w = some i := by
  obtain ⟨hwf, hfmt, rest, hw⟩ := h
  rw [decodeTableWord, hfmt, ← hw, decodeUndoesEncode i rest hwf]

/-- Settles O38: each word begins with the encoding of its operation. -/
theorem tableWordsDecode : Obligations.TableWordsDecode :=
  ⟨decodeTableWord_of_encode (by decide), decodeTableWord_of_encode (by decide), decodeTableWord_of_encode (by decide),
    decodeTableWord_of_encode (by decide), decodeTableWord_of_encode (by decide),
    decodeTableWord_of_encode (by decide), decodeTableWord_of_encode (by decide)⟩

end Sys2Proof
end

section
/-! SUPPORT. The closed forms of the checksum (30_encoding.md rule R43): each sum of the rule by its first byte, and the
fold as the two sums, started at any value. -/

namespace Sys2Proof

/-- The sum of `c_k` of rule R43. -/
def byteSum (c : List Byte) : Nat := ((List.range c.length).map (fun k => (c.getD k 0).toNat)).sum

/-- The sum of `(n - k) * c_k` of rule R43. -/
def weightedSum (c : List Byte) : Nat := ((List.range c.length).map (fun k => (c.length - k) * (c.getD k 0).toNat)).sum

theorem byteSum_cons (x : Byte) (c : List Byte) : byteSum (x :: c) = x.toNat + byteSum c := by
  simp [byteSum, List.range_succ_eq_map, Function.comp_def]

theorem weightedSum_cons (x : Byte) (c : List Byte) :
    weightedSum (x :: c) = (c.length + 1) * x.toNat + weightedSum c := by
  simp [weightedSum, List.range_succ_eq_map, Function.comp_def]

/-- The fold from `(a, b)`: the first sum goes on from `a`, and the second takes `a` once per byte besides. -/
theorem foldl_foldCk (c : List Byte) (a b : Byte) :
    c.foldl foldCk (a, b) =
      (a + BitVec.ofNat 8 (byteSum c), b + BitVec.ofNat 8 (c.length * a.toNat + weightedSum c)) := by
  induction c generalizing a b with
  | nil => simp [byteSum, weightedSum]
  | cons x c ih =>
    rw [List.foldl_cons, foldCk, ih, byteSum_cons, weightedSum_cons, List.length_cons]
    refine Prod.ext ?_ ?_
    · simp [BitVec.ofNat_add, BitVec.add_assoc]
    · simp only [Nat.add_one_mul, BitVec.ofNat_add, BitVec.ofNat_mul, BitVec.ofNat_toNat, BitVec.setWidth_eq]
      ring

/-- Both sums start at `type`, which is the fold's first step from zero. -/
theorem checksum_eq_foldl (type length : Byte) (data : List Byte) :
    checksum type length data = (type :: length :: data).foldl foldCk (0, 0) := by
  simp [checksum, foldCk]

/-- Settles O34, from the fold's two sums started at zero. -/
theorem checksumHasItsClosedForms : Obligations.ChecksumHasItsClosedForms := by
  rintro type length data c rfl
  rw [checksum_eq_foldl, foldl_foldCk]
  constructor
  · simp [byteSum]
  · simp [weightedSum]

end Sys2Proof
end

section
/-! SUPPORT. The row that `(fs, b)` selects and a run of `FEED`s, each as the framer's transition (43_framer.md rules R80 to
R87, 30_encoding.md rules R46, R49). -/

namespace Sys2Proof.Machine

variable {s s' : State} {b : Byte}

/-! ### The selected row -/

/-- The selected row meets its own condition, so it performs the framer's transition. The last row of `WaitData` asks for
`f_idx + 1 = f_length`, which the invariant gives once the row before it is passed over. -/
theorem exec_feedRow (hi : s.FramerIdle) (hok : s.FramerOk) : exec (s.feedRow b) s = feedByte b s := by
  obtain ⟨-, hdata, -⟩ := hok
  unfold State.feedRow feedByte
  cases hfs : s.fs with
  | waitStart1 =>
    by_cases hb : b = startByte1 <;> simp only [hb, if_true, if_false, feedWaitStart1]
    · exact feedRowStep_run hi hfs rfl
    · exact feedRowStep_run hi hfs (bne_iff.mpr hb)
  | waitStart2 =>
    by_cases hb : b = startByte2 <;> simp only [hb, if_true, if_false, feedWaitStart2]
    · exact feedRowStep_run hi hfs rfl
    · exact feedRowStep_run hi hfs (bne_iff.mpr hb)
  | waitType => exact feedRowStep_run hi hfs rfl
  | waitLength =>
    by_cases hm : s.prm.mtu < b <;> simp only [hm, if_true, if_false, feedWaitLength]
    · exact feedRowStep_run hi hfs (decide_eq_true hm)
    by_cases hb : b = 0 <;> simp only [hb, if_true, if_false]
    · exact feedRowStep_run hi hfs rfl
    · exact feedRowStep_run hi hfs (by simp only [bne_iff.mpr hb, Bool.true_and, decide_eq_true (BitVec.not_lt.mp hm)])
  | waitData =>
    by_cases hmore : s.f_idx + 1 < s.f_length.toNat <;> simp only [hmore, if_true, if_false, feedWaitData]
    · have hne : s.f_idx + 1 ≠ s.f_length.toNat := Nat.ne_of_lt hmore
      simp only [hne, if_false]
      exact feedRowStep_run hi hfs (decide_eq_true hmore)
    · have heq : s.f_idx + 1 = s.f_length.toNat := by
        have := (hdata hfs).1
        omega
      simp only [heq, if_true]
      exact feedRowStep_run hi hfs (decide_eq_true heq)
  | waitChecksum1 =>
    by_cases hb : b = s.f_ck0 <;> simp only [hb, if_true, if_false, feedWaitChecksum1]
    · exact feedRowStep_run hi hfs (beq_self_eq_true _)
    · exact feedRowStep_run hi hfs (bne_iff.mpr hb)
  | waitChecksum2 =>
    by_cases hb : b = s.f_ck1 <;> simp only [hb, if_true, if_false, feedWaitChecksum2]
    · exact feedRowStep_run hi hfs (beq_self_eq_true _)
    · exact feedRowStep_run hi hfs (bne_iff.mpr hb)

/-- The framer's transition ends in the next state the table gives the selected row. -/
theorem feedRow_rowNextState (hok : s.FramerOk) (h : feedByte b s = .next s') :
    (s.feedRow b).rowNextState = some s'.fs := by
  obtain ⟨harr, hdata, hck⟩ := hok
  unfold feedByte at h
  unfold State.feedRow
  cases hfs : s.fs with
  | waitStart1 =>
    simp only [hfs, feedWaitStart1] at h ⊢
    split at h <;> rename_i hb <;> cases h
    · rw [if_pos hb]; rfl
    · rw [if_neg hb, hfs]; rfl
  | waitStart2 =>
    simp only [hfs, feedWaitStart2] at h ⊢
    split at h <;> rename_i hb <;> cases h
    · rw [if_pos hb]; rfl
    · rw [if_neg hb]; rfl
  | waitType =>
    simp only [hfs] at h ⊢
    cases h
    rfl
  | waitLength =>
    simp only [hfs, feedWaitLength] at h ⊢
    split at h <;> rename_i hb <;> cases h
    · rw [if_pos hb]; rfl
    · rw [if_neg hb]
      by_cases hz : b = 0
      · rw [if_pos hz, if_pos hz]; rfl
      · rw [if_neg hz, if_neg hz]; rfl
  | waitData =>
    obtain ⟨hlt, hle⟩ := hdata hfs
    have hidx : s.f_idx < s.f_data.length := harr ▸ Nat.lt_of_lt_of_le hlt hle
    simp only [hfs, feedWaitData, dataTaken_eq hidx] at h ⊢
    cases h
    by_cases hlast : s.f_idx + 1 = s.f_length.toNat
    · rw [if_pos hlast, if_neg (by omega)]; rfl
    · rw [if_neg hlast, if_pos (by omega)]; rfl
  | waitChecksum1 =>
    simp only [hfs, feedWaitChecksum1] at h ⊢
    split at h <;> rename_i hb <;> cases h
    · rw [if_pos hb]; rfl
    · rw [if_neg hb]; rfl
  | waitChecksum2 =>
    have hlen : s.f_length.toNat ≤ s.f_data.length := harr ▸ (hck (.inr hfs)).2
    simp only [hfs, feedWaitChecksum2, assembled_eq hlen] at h ⊢
    split at h <;> rename_i hb <;> cases h
    · rw [if_pos hb]; rfl
    · rw [if_neg hb]; rfl

/-! ### A run of `FEED`s -/

theorem FramerFrame.framerIdle (h : FramerFrame s s') (hi : s.FramerIdle) : s'.FramerIdle := by
  rw [h.frame]
  exact hi

/-- The transition keeps the framing task idle, so `FEED`s one after another are the run of bytes. -/
theorem execAll_feed (bs : List Byte) (hi : s.FramerIdle) : execAll (bs.map .feed) s = feedBytes bs s := by
  induction bs generalizing s with
  | nil => rfl
  | cons b rest ih =>
    have hb : exec (.feed b) s = feedByte b s := framerStep_run hi
    rw [List.map_cons, execAll, feedBytes, hb]
    cases h : feedByte b s with
    | next s1 => exact ih ((feedByte_frame h).framerIdle hi)
    | fault r => rfl
    | refused r => rfl

end Sys2Proof.Machine

namespace Sys2Proof

open Machine

/-- Settles O27: the transition completes under the framer's invariant, and both the row and `FEED(b)` are it. -/
theorem selectedRowIsFeed : Obligations.SelectedRowIsFeed := by
  intro s b hi hok
  obtain ⟨s', h, -⟩ := feedByte_completes b hok
  exact ⟨s', (exec_feedRow hi hok).trans h, (framerStep_run hi).trans h, feedRow_rowNextState hok h⟩

/-- Settles O31: the run of a frame's bytes completes under the framer's invariant, and both sides are it. -/
theorem frameIsFedInSequenceOrder : Obligations.FrameIsFedInSequenceOrder := by
  intro s f hi hok
  obtain ⟨s', h, -⟩ := feedBytes_completes f.bytes hok
  exact ⟨s', (framerStep_run hi).trans h, (execAll_feed _ hi).trans h⟩

end Sys2Proof
end

section
/-! SUPPORT. The operations of 40_transport_tx.md branch by branch (rules R50 to R55): which phase an offered operation runs,
and what each phase does or that it waits. -/

namespace Sys2Proof.Machine

variable {s : State} {t : Nat}

/-! ### Phases -/

theorem blockUntil_none {k : State → State} {r : Option State} (h : r = none) : blockUntil s r k = .next s := by
  rw [h]; rfl

theorem blockUntil_some {k : State → State} {r : Option State} {s1 : State} (h : r = some s1) :
    blockUntil s r k = .next (k s1) := by
  rw [h]; rfl

theorem acquireTxLock_free (h : s.tx_lock = .free) : s.acquireTxLock t = some { s with tx_lock := .held t } :=
  if_pos h

theorem acquireTxLock_held (h : s.tx_lock ≠ .free) : s.acquireTxLock t = none := if_neg h

theorem acquireSendMutex_held (h : s.send_mutex ≠ .free) : s.acquireSendMutex t = none := if_neg h

theorem programTx_ready {addr : Addr} {size : Count} (hen : s.tx_en = false) (hpa : s.is_paused = false) :
    s.programTx addr size = some { s with
      tx_base := addr, tx_size := size, tx_ptr := addr, tx_count := size, tx_tcie := true, tx_en := true } := by
  simp [State.programTx, hen, hpa]

theorem programTx_busy {addr : Addr} {size : Count} (h : s.tx_en = true ∨ s.is_paused = true) :
    s.programTx addr size = none := by
  rcases h with h | h <;> simp [State.programTx, h]

theorem takeTxDone_given (h : s.tx_done = true) : s.takeTxDone = some { s with tx_done := false } := if_pos h

theorem takeTxDone_not_given (h : s.tx_done = false) : s.takeTxDone = none := by
  simp [State.takeTxDone, h]

/-! ### Guards -/

/-- A live step whose meaning waits leaves the state as it is, whether a fault is raised or not. -/
theorem liveStep_wait {k : Out} (h : k = .next s) : liveStep s k = .next s := by
  rw [h]
  exact ite_self _

theorem exec_init_idle (h : s.TaskIs t .idle) :
    exec (.init t) s = if s.ready then .refused .secondInit else .next s.initialised :=
  taskStep_run h

theorem exec_sendLowRate_idle {bytes : List Byte} (h : s.TaskIs t .idle) :
    exec (.sendLowRate t bytes) s =
      if s.ready && !bytes.isEmpty then .next (s.setTask t (.sendLowRate bytes 0)) else .next s :=
  taskStep_run h

theorem exec_sendLowRate_phase {bytes : List Byte} {i : Nat} (h : s.TaskIs t (.sendLowRate bytes i)) :
    exec (.sendLowRate t bytes) s = lowRatePhase t bytes i s :=
  (taskStep_run h).trans (if_pos rfl)

theorem exec_sendDma_idle {addr : Addr} {size : Count} (h : s.TaskIs t .idle) :
    exec (.sendDma t addr size) s =
      if !s.ready then .next (s.report t .driverAbsent)
      else if size = 0 then .refused .emptyTransfer
      else if rangeWraps addr size then .refused .wrappingTransfer
      else .next (s.setTask t (.sendDma addr size .a)) :=
  taskStep_run h

theorem exec_sendDma_phase {addr : Addr} {size : Count} {phase : DmaPhase} (h : s.TaskIs t (.sendDma addr size phase)) :
    exec (.sendDma t addr size) s = sendDmaPhase t addr size phase s :=
  (taskStep_run h).trans (if_pos ⟨rfl, rfl⟩)

theorem rangeWraps_iff {addr : Addr} {size : Count} :
    rangeWraps addr size = true ↔ 2 ^ 32 < addr.toNat + size.toNat :=
  decide_eq_true_iff

/-- A beat of an active stream; the last one is the one that finds one byte left. -/
theorem beat_eq (hen : s.tx_en = true) : s.beat = { s with
    wire_tx := s.wire_tx ++ [s.mem.read s.tx_ptr]
    txe := false
    tx_ptr := s.tx_ptr + 1
    tx_count := s.tx_count - 1
    tx_en := decide (s.tx_count ≠ 1)
    tx_tcif := s.tx_tcif || decide (s.tx_count = 1) } := by
  have hlast : s.tx_count - 1 = 0 ↔ s.tx_count = 1 := by bv_omega
  simp only [State.beat, State.emitTx, hlast, hen]
  by_cases h : s.tx_count = 1 <;> simp [h, Bool.or_comm]

end Sys2Proof.Machine

namespace Sys2Proof

open Machine

/-- Settles O3, by what the task is doing: an idle one runs `INIT` or is refused, any other waits. -/
theorem initConfiguresAndArms : Obligations.InitConfiguresAndArms := by
  intro s t
  refine ⟨?first, ?second, ?busy⟩
  case first =>
    intro h hr
    rw [exec_init_idle h, hr]
    rfl
  case second =>
    intro h hr
    rw [exec_init_idle h, hr]
    rfl
  case busy =>
    intro ts h hne
    refine (taskStep_run h).trans ?_
    cases ts with
    | idle => exact absurd rfl hne
    | sendLowRate | sendDma | sendPacket | recvTimeout => rfl

/-- Settles O4, by the phase the task is in. -/
theorem lowRateSendsByteByByte : Obligations.LowRateSendsByteByByte := by
  intro s t bytes
  refine ⟨?nothing, ?entry, ?byte, ?blocked⟩
  case nothing =>
    intro h hnone
    rw [exec_sendLowRate_idle h, if_neg]
    rcases hnone with hr | rfl
    · simp [hr]
    · simp
  case entry =>
    intro h hr hb
    rw [exec_sendLowRate_idle h, if_pos (by simp [hr, hb])]
    rfl
  case byte =>
    intro i hi h hx
    rw [exec_sendLowRate_phase h, lowRatePhase, if_pos hx, List.getElem?_eq_getElem hi]
    rfl
  case blocked =>
    intro i h hx
    rw [exec_sendLowRate_phase h, lowRatePhase, hx]
    rfl

/-- Settles O5: the entry by its three checks, then each phase by whether it is enabled. -/
theorem sendDmaRunsItsPhases : Obligations.SendDmaRunsItsPhases := by
  intro s t addr size
  refine ⟨?absent, ?empty, ?wraps, ?entry, ?lock, ?lockHeld, ?program, ?busy, ?take, ?notDone, ?ret⟩
  case absent =>
    intro h hr
    rw [exec_sendDma_idle h, if_pos (by simp [hr])]
    rfl
  case empty =>
    intro h hr hz
    rw [exec_sendDma_idle h, if_neg (by simp [hr]), if_pos hz]
  case wraps =>
    intro h hr hz hw
    rw [exec_sendDma_idle h, if_neg (by simp [hr]), if_neg hz, if_pos (rangeWraps_iff.mpr hw)]
  case entry =>
    intro h hr hz hw
    rw [exec_sendDma_idle h, if_neg (by simp [hr]), if_neg hz, if_neg (mt rangeWraps_iff.mp (Nat.not_lt.mpr hw))]
    rfl
  case lock =>
    intro h hl
    exact (exec_sendDma_phase h).trans (blockUntil_some (acquireTxLock_free hl))
  case lockHeld =>
    intro h hl
    exact (exec_sendDma_phase h).trans (blockUntil_none (acquireTxLock_held hl))
  case program =>
    intro h hen hpa
    exact (exec_sendDma_phase h).trans (blockUntil_some (programTx_ready hen hpa))
  case busy =>
    intro h hb
    exact (exec_sendDma_phase h).trans (blockUntil_none (programTx_busy hb))
  case take =>
    intro h hd
    exact (exec_sendDma_phase h).trans (blockUntil_some (takeTxDone_given hd))
  case notDone =>
    intro h hd
    exact (exec_sendDma_phase h).trans (blockUntil_none (takeTxDone_not_given hd))
  case ret =>
    intro h
    exact exec_sendDma_phase h

/-- Settles O6, by whether a beat is enabled. -/
theorem beatSendsTheByteAtTxPtr : Obligations.BeatSendsTheByteAtTxPtr := by
  intro s
  refine ⟨fun hf hen hx => ?beat, fun hoff => ?wait⟩
  case beat =>
    rw [← beat_eq hen]
    exact (liveStep_run hf).trans (if_pos (by simp [State.beatEnabled, hen, hx]))
  case wait =>
    exact liveStep_wait (if_neg (by rcases hoff with h | h <;> simp [State.beatEnabled, h]))

/-- Settles O7, by whether each of the two steps is enabled. -/
theorem transmitterEmptiesAndCompletes : Obligations.TransmitterEmptiesAndCompletes := by
  intro s
  refine ⟨fun hf hx => ?empty, fun hx => ?stillEmpty, fun hf ha htc hie => ?complete, fun hoff => ?wait⟩
  case empty => exact (liveStep_run hf).trans (if_neg (by simp [hx]))
  case stillEmpty => exact liveStep_wait (if_pos hx)
  case complete => exact irqStep_run hf ha (by simp [State.txTcPending, htc, hie])
  case wait =>
    refine irqStep_wait (.inr (hoff.imp_right fun h => ?_))
    rcases h with h | h <;> simp [State.txTcPending, h]

end Sys2Proof
end

section
/-! SUPPORT. The transfer that is programmed (rules R52, R53, R56, R64): who may program another, and that what its beats
have put on the wire is the part of the buffer that `tx_count` says is sent. -/

namespace Sys2Proof.Machine

variable {i : Instr} {s s' : State} {w0 : List Byte}

/-- The descriptor, the bytes left and the wire are as they were. -/
structure TransferKept (s s' : State) : Prop where
  base : s'.tx_base = s.tx_base
  size : s'.tx_size = s.tx_size
  count : s'.tx_count = s.tx_count
  wire : s'.wire_tx = s.wire_tx

/-- What an operation does to the programmed transfer: nothing, or it sends a byte of `SEND_LOW_RATE` beside it, or the
stream beats, or its caller programs another one in phase C. -/
inductive TransferMove (s : State) (i : Instr) (s' : State) : Prop where
  | keep (h : TransferKept s s')
  | lowRate (hi : i.isLowRate = true) (hbase : s'.tx_base = s.tx_base) (hsize : s'.tx_size = s.tx_size)
  | beat (hen : s.tx_en = true) (hs : s' = s.beat)
  | program {t : Nat} {old : TaskState} (hcaller : i.caller s = some t) (ht : s.task[t]? = some old)
      (hold : old.holdsTxLock = true) (hquiet : old.awaitsTx = false)

theorem TransferKept.refl (s : State) : TransferKept s s := ⟨rfl, rfl, rfl, rfl⟩

theorem TransferKept.paused (h : TransferKept s s') : TransferKept s s'.paused := by
  rw [paused_eq]; exact ⟨h.base, h.size, h.count, h.wire⟩

/-- A paused stream keeps its count in `tx_count`, so resuming it restores what already stands there. -/
theorem StreamOk.resumed_tx_count (h : s.StreamOk) : s.resumed.tx_count = s.tx_count := by
  unfold State.resumed
  split
  · rename_i hpa
    obtain ⟨-, -, -, -, hcount, -⟩ := h.2.1 hpa
    exact hcount.symm
  · rfl

theorem TransferKept.resumed (h : TransferKept s s') (hx : s'.StreamOk) : TransferKept s s'.resumed := by
  have hcount := StreamOk.resumed_tx_count hx
  rw [resumed_eq] at hcount ⊢
  exact ⟨h.base, h.size, hcount.trans h.count, h.wire⟩

theorem Effect.transferMove (h : Effect s i s') (hx : s.StreamOk) : TransferMove s i s' := by
  have hr := h.receiverFrame
  cases h with
  | dmaProgram h | packetProgram h => exact .program rfl h.2 rfl rfl
  | beat _ hen => exact .beat hen rfl
  | pause => exact .keep (.paused (.refl s))
  | resume => exact .keep (.resumed (.refl s) hx)
  | fcIsr =>
    have hack : TransferKept s { s with fc_pend := false } := ⟨rfl, rfl, rfl, rfl⟩
    split
    · exact .keep hack.paused
    · exact .keep (hack.resumed hx)
  | lowRateByte => exact .lowRate rfl rfl rfl
  | errorFlag | errorIrq | errorBoth | handOff | available | dispatch | poll =>
    rw [(hr rfl).frame]; exact .keep ⟨rfl, rfl, rfl, rfl⟩
  | feed hf => rw [(hr (Instr.isReceiver_of_isFramer hf)).frame]; exact .keep ⟨rfl, rfl, rfl, rfl⟩
  | _ => exact .keep ⟨rfl, rfl, rfl, rfl⟩

/-! ### While a task awaits the transfer -/

/-- An awaited transfer has no more bytes left than it has. -/
theorem TransferAwaited.tx_count_le (h : s.TransferAwaited) (hx : s.StreamOk) (hw : ∃ ts ∈ s.task, ts.awaitsTx = true) :
    s.tx_count.toNat ≤ s.tx_size.toNat := by
  obtain ⟨ts, hmem, hw⟩ := hw
  obtain ⟨-, hsigns, -⟩ := h.1 ts hmem hw
  obtain ⟨hactive, hpaused, hdone⟩ := hx
  cases hen : s.tx_en with
  | true => exact (hactive hen).2.1
  | false =>
    cases hpa : s.is_paused with
    | true =>
      obtain ⟨-, -, hle, hinit, hcount, -⟩ := hpaused hpa
      rw [hcount, ← hinit]
      exact hle
    | false =>
      have hcompleted : s.tx_tcif = true ∨ s.tx_done = true := by
        by_contra hno
        simp only [not_or, Bool.not_eq_true] at hno
        simp [State.transferSigns, hen, hpa, hno.1, hno.2] at hsigns
      simp [hdone hcompleted]

/-- No task is at phase C while another awaits its transfer: the sign of the transfer would stand and not stand. -/
theorem TransferAwaited.not_program (h : s.TransferAwaited) (hl : s.LocksOk) (hw : ∃ ts ∈ s.task, ts.awaitsTx = true)
    {t : Nat} {old : TaskState} (ht : s.task[t]? = some old) (hold : old.holdsTxLock = true)
    (hquiet : old.awaitsTx = false) : False := by
  obtain ⟨ts, hmem, hw⟩ := hw
  obtain ⟨-, hone, -⟩ := h.1 ts hmem hw
  have hzero := TransferAwaited.no_sign h hl ht hold hquiet
  omega

/-- The bytes sent stay the sent part of the buffer while the transfer and the buffer's bytes stay. -/
theorem SentAfter.keep (h : s.SentAfter w0) (hle : s.tx_count.toNat ≤ s.tx_size.toNat) (hk : TransferKept s s')
    (hmem : s'.mem.slice s.tx_base s.tx_size.toNat = s.mem.slice s.tx_base s.tx_size.toNat) : s'.SentAfter w0 := by
  have hsent : (s.tx_size - s.tx_count).toNat ≤ s.tx_size.toNat := by bv_omega
  have hpart : s'.mem.slice s.tx_base (s.tx_size - s.tx_count).toNat =
      s.mem.slice s.tx_base (s.tx_size - s.tx_count).toNat := by
    rw [← Memory.slice_take _ _ hsent, hmem, Memory.slice_take _ _ hsent]
  rw [State.SentAfter, hk.base, hk.size, hk.count, hk.wire, hpart]
  exact h

/-- A beat sends the next byte of the buffer. -/
theorem SentAfter.beat (h : s.SentAfter w0) (hx : s.StreamOk) (hen : s.tx_en = true) : s.beat.SentAfter w0 := by
  obtain ⟨hpos, hle, hptr⟩ := hx.1 hen
  have hnext : (s.tx_size - (s.tx_count - 1)).toNat = (s.tx_size - s.tx_count).toNat + 1 := by bv_omega
  calc s.beat.wire_tx
      = w0 ++ s.mem.slice s.tx_base (s.tx_size - s.tx_count).toNat ++ [s.mem.read s.tx_ptr] :=
        congrArg (· ++ [s.mem.read s.tx_ptr]) h
    _ = w0 ++ s.mem.slice s.tx_base (s.tx_size - (s.tx_count - 1)).toNat := by
        rw [hnext, Memory.slice_succ, BitVec.ofNat_toNat, BitVec.setWidth_eq, hptr, List.append_assoc]

end Sys2Proof.Machine

namespace Sys2Proof

open Machine

/-- Settles O8: a step without `SEND_LOW_RATE` leaves the awaited transfer and the wire, or beats; nobody is at phase C. -/
theorem beatsSendTheBufferExactlyOnce : Obligations.BeatsSendTheBufferExactlyOnce := by
  intro s s' w0 hinv hw hsent hlow hstep hmem
  obtain ⟨-, -, hl, ha, hx, -⟩ := hinv
  have hle := TransferAwaited.tx_count_le ha hx hw
  rcases step_cases hstep with ⟨-, rfl | ⟨e, rest, -, rfl⟩⟩ | ⟨i, e, rest, hnext, -, h⟩ | ⟨a, v, rest, -, -, -, -, -, rfl⟩
  · exact ⟨rfl, rfl, hsent⟩
  · exact ⟨rfl, rfl, hsent⟩
  · rcases exec_effect h with rfl | h
    · exact ⟨rfl, rfl, hsent⟩
    cases h.transferMove hx with
    | keep hk => exact ⟨hk.base, hk.size, SentAfter.keep (s := { s with sched := rest }) hsent hle hk hmem⟩
    | lowRate hi _ _ => simp [hlow i hnext] at hi
    | beat hen hs =>
      subst hs
      exact ⟨rfl, rfl, SentAfter.beat (s := { s with sched := rest }) hsent hx hen⟩
    | program _ ht hold hquiet => exact (TransferAwaited.not_program ha hl hw ht hold hquiet).elim
  · exact ⟨rfl, rfl, SentAfter.keep hsent hle ⟨rfl, rfl, rfl, rfl⟩ hmem⟩

/-- Settles O9: the transfer signalled is the sender's own and has no byte left, and its buffer is the built frame. -/
theorem completedSendPutsItsFrameOnTheWire : Obligations.CompletedSendPutsItsFrameOnTheWire := by
  intro s w0 t p hinv hbuilt ht hsent hd
  obtain ⟨-, -, -, ha, hx, -⟩ := hinv
  have hmem := List.mem_of_getElem? ht
  obtain ⟨hown, -, -⟩ := ha.1 _ hmem rfl
  obtain ⟨hbase, hsize⟩ : s.prm.txfBase = s.tx_base ∧ frameSize p = s.tx_size := by
    simpa [TaskState.transfer] using hown
  have hcount : s.tx_count = 0 := hx.2.2 (.inr hd)
  have hlen : (frameSize p).toNat = p.length.toNat + 6 := by
    have := p.length.isLt
    unfold frameSize
    bv_omega
  calc s.wire_tx
      = w0 ++ s.mem.slice s.tx_base (s.tx_size - s.tx_count).toNat := hsent
    _ = w0 ++ s.mem.slice s.prm.txfBase (p.length.toNat + 6) := by
        rw [hcount, sub_zero, ← hbase, ← hsize, hlen]
    _ = w0 ++ p.frame.bytes := by rw [hbuilt _ hmem p rfl]

end Sys2Proof
end

section
/-! SUPPORT. Exclusion (rules R22, R56, R94): the holder of a lock is alone in the phases the lock guards, and another task's
attempt to acquire it waits. -/

namespace Sys2Proof.Machine

variable {i : Instr} {s s' : State} {t u : Nat} {x y : TaskState}

/-! ### One lock -/

section

variable {l l' : Lock} {task : List TaskState} {holds : TaskState → Bool}

theorem LockMatches.held (h : LockMatches l task holds) (ht : task[t]? = some x) (hx : holds x = true) : l = .held t := by
  obtain ⟨-, hiff⟩ := h
  exact (hiff t (lt_length_of_getElem?_eq_some ht)).mp (by simpa [ht] using hx)

/-- Two tasks in the phases that one lock guards are one task. -/
theorem LockMatches.holder_unique (h : LockMatches l task holds) (ht : task[t]? = some x) (hx : holds x = true)
    (hu : task[u]? = some y) (hy : holds y = true) : u = t := by
  have hl := (LockMatches.held h hu hy).symm.trans (LockMatches.held h ht hx)
  simpa using hl

/-- A task that does not hold a lock does not come to hold it while it is held. -/
theorem LockMove.keeps_out {old new : Bool} (h : LockMove u old new l l') (hl : l = .held t) (ho : old = false) :
    new = false := by
  cases h with
  | keep hn _ => exact hn.trans ho
  | acquire _ hfree _ => simp [hl] at hfree
  | release _ hn _ => exact hn

end

/-! ### The two locks in an operation -/

/-- No operation lets a second task into the phases of a lock, if the lock moves with the phase of the task that moves. -/
theorem exec_keeps_out {holds : TaskState → Bool} {lock : State → Lock}
    (hmove : ∀ {v old new}, TaskMove s v old new s' → LockMove v (holds old) (holds new) (lock s) (lock s'))
    (hl : LockMatches (lock s) s.task holds) (ht : s.task[t]? = some x) (hx : holds x = true) (hut : u ≠ t)
    (h : exec i s = .next s') (hy : s'.task[u]? = some y) : holds y = false := by
  have hout : ∀ {z}, s.task[u]? = some z → holds z = false := fun hu =>
    Bool.of_not_eq_true fun hz => hut (LockMatches.holder_unique hl ht hx hu hz)
  rcases exec_effect h with rfl | h
  · exact hout hy
  rcases h.tasks with ⟨htask, -, -⟩ | ⟨v, old, new, -, hm⟩
  · exact hout (htask ▸ hy)
  rw [hm.task] at hy
  by_cases hvu : v = u
  · subst hvu
    obtain rfl : new = y := by
      simpa [List.getElem?_set_self (lt_length_of_getElem?_eq_some hm.was)] using hy
    exact (hmove hm).keeps_out (LockMatches.held hl ht hx) (hout hm.was)
  · rw [List.getElem?_set_ne hvu] at hy
    exact hout hy

/-- Only the holder of `tx_lock` programs a transfer. -/
theorem exec_keeps_descriptor (hl : s.LocksOk) (hstream : s.StreamOk) (ht : s.task[t]? = some x)
    (hx : x.holdsTxLock = true) (h : exec i s = .next s') (hi : i.caller s ≠ some t) :
    s'.tx_base = s.tx_base ∧ s'.tx_size = s.tx_size := by
  rcases exec_effect h with rfl | h
  · exact ⟨rfl, rfl⟩
  cases h.transferMove hstream with
  | keep hk => exact ⟨hk.base, hk.size⟩
  | lowRate _ hbase hsize => exact ⟨hbase, hsize⟩
  | beat _ hs => rw [hs]; exact ⟨rfl, rfl⟩
  | program hcaller hu hold _ => exact absurd (LockMatches.holder_unique hl.1 ht hx hu hold ▸ hcaller) hi

/-- Only the holder of `send_mutex` writes memory. -/
theorem exec_keeps_memory (hl : s.LocksOk) (ht : s.task[t]? = some x) (hx : x.holdsSendMutex = true)
    (h : exec i s = .next s') (hi : i.caller s ≠ some t) : s'.mem = s.mem := by
  rcases exec_effect h with rfl | h
  · rfl
  rcases h.memory with hm | ⟨u, p, rfl | rfl, hu, -⟩
  · exact hm
  · exact absurd (congrArg some (LockMatches.holder_unique hl.2 ht hx hu rfl)) hi
  · exact absurd (by simp only [Instr.caller, LockMatches.held hl.2 ht hx]) hi

/-! ### Attempts -/

/-- A task's operation that waits at the phase the task is in leaves the state as it is, also once a fault is raised. -/
theorem taskStep_wait {k : TaskState → Out} (hu : s.task[u]? = some y) (hk : k y = .next s)
    (h : taskStep s u k = .next s') : s' = s := by
  rcases taskStep_next h with rfl | ⟨ts, hts, h⟩
  · rfl
  · obtain rfl : y = ts := by simpa [hu] using hts.2
    rw [hk] at h
    cases h; rfl

theorem sendDma_waits_at_a {addr : Addr} {size : Count} (hl : s.tx_lock ≠ .free)
    (hu : s.task[u]? = some (.sendDma addr size .a)) (h : exec (.sendDma u addr size) s = .next s') : s' = s :=
  taskStep_wait hu ((if_pos ⟨rfl, rfl⟩).trans (blockUntil_none (acquireTxLock_held hl))) h

theorem sendPacket_waits_at_a {p : Packet} (hl : s.tx_lock ≠ .free) (hu : s.task[u]? = some (.sendPacket p .a))
    (h : exec (.sendPacket u p) s = .next s') : s' = s :=
  taskStep_wait hu ((if_pos rfl).trans (blockUntil_none (acquireTxLock_held hl))) h

theorem sendPacket_waits_at_m {p : Packet} (hl : s.send_mutex ≠ .free) (hu : s.task[u]? = some (.sendPacket p .m))
    (h : exec (.sendPacket u p) s = .next s') : s' = s :=
  taskStep_wait hu ((if_pos rfl).trans (blockUntil_none (acquireSendMutex_held hl))) h

end Sys2Proof.Machine

namespace Sys2Proof

open Machine

/-- Settles O59: the two locks alike, each held by the task in its phases, so that every other task is kept out, waits at the
phase that acquires it, and is not the one that programs a transfer or builds a frame. -/
theorem transfersAndFramesAreExclusive : Obligations.TransfersAndFramesAreExclusive := by
  intro i s s' t u x hinv ht hut h
  obtain ⟨-, -, hl, -, hstream, -⟩ := hinv
  refine ⟨fun hx => ?transfer, fun hx => ?frame⟩
  case transfer =>
    have hheld : s.tx_lock ≠ .free := by simp [LockMatches.held hl.1 ht hx]
    refine ⟨fun y hy => exec_keeps_out (lock := State.tx_lock) TaskMove.txLock hl.1 ht hx hut h hy,
      exec_keeps_descriptor hl hstream ht hx h, ?_, ?_⟩
    · rintro addr size hu rfl
      exact sendDma_waits_at_a hheld hu h
    · rintro p hu rfl
      exact sendPacket_waits_at_a hheld hu h
  case frame =>
    have hheld : s.send_mutex ≠ .free := by simp [LockMatches.held hl.2 ht hx]
    refine ⟨fun y hy => exec_keeps_out (lock := State.send_mutex) TaskMove.sendMutex hl.2 ht hx hut h hy,
      exec_keeps_memory hl ht hx h, ?_⟩
    rintro p hu rfl
    exact sendPacket_waits_at_m hheld hu h

end Sys2Proof
end

section
/-! SUPPORT. Hardware flow control (41_flow_control.md rules R60 to R65): the two hooks branch by branch, what a pause and the
resume after it leave, and that the task whose transfer is under way is blocked. -/

namespace Sys2Proof.Machine

variable {s : State} {t : Nat} {ts : TaskState}

/-! ### The hooks -/

theorem paused_of_active (h : s.tx_en = true) : s.paused = { s with
    tx_en := false
    remaining_count := s.tx_count
    initial_count := s.tx_size
    is_paused := true } :=
  if_pos h

theorem paused_of_inactive (h : s.tx_en = false) : s.paused = s := if_neg (by simp [h])

theorem resumed_of_paused (h : s.is_paused = true) : s.resumed = { s with
    tx_count := s.remaining_count
    tx_ptr := s.tx_base + (s.initial_count - s.remaining_count)
    tx_tcie := true
    tx_en := true
    is_paused := false } :=
  if_pos h

theorem resumed_of_not_paused (h : s.is_paused = false) : s.resumed = s := if_neg (by simp [h])

theorem pauseLevel_iff : s.pauseLevel = true ↔ s.fc_level = s.prm.fcPauseLevel := beq_iff_eq

theorem exec_pauseTx (h : s.fault = none) : exec .pauseTx s = .next s.paused := liveStep_run h

theorem exec_resumeTx (h : s.fault = none) : exec .resumeTx s = .next s.resumed := liveStep_run h

theorem exec_fcIsr (hf : s.fault = none) (ha : s.armed = true) (hp : s.fc_pend = true) :
    exec .fcIsr s = .next
      (if s.pauseLevel then { s with fc_pend := false }.paused else { s with fc_pend := false }.resumed) :=
  irqStep_run hf ha hp

/-! ### The transfer under way -/

/-- A sign of a transfer is the sign of a task's transfer. -/
theorem TransferAwaited.exists_awaiting (h : s.TransferAwaited) (hs : s.transferSigns ≠ 0) :
    ∃ ts ∈ s.task, ts.awaitsTx = true := by
  by_contra hno
  push Not at hno
  exact hs (h.2 fun ts hmem => by simpa using hno ts hmem)

/-- The completion interrupt of an active transfer is enabled, so that resuming it enables it again changes nothing. -/
theorem TransferAwaited.active_tcie (h : s.TransferAwaited) (hen : s.tx_en = true) : s.tx_tcie = true := by
  obtain ⟨-, -, hd⟩ := TransferAwaited.only_active h hen
  obtain ⟨ts, hmem, hw⟩ := TransferAwaited.exists_awaiting h (by simp [State.transferSigns, hen])
  obtain ⟨-, -, htcie⟩ := h.1 ts hmem hw
  exact htcie hd

/-- The live registers of an active transfer are what the resume computes from the saved counts. -/
theorem paused_resumed (ha : s.TransferAwaited) (hx : s.StreamOk) (hen : s.tx_en = true) :
    s.paused.resumed = { s with remaining_count := s.tx_count, initial_count := s.tx_size } := by
  obtain ⟨-, -, hptr⟩ := hx.1 hen
  obtain ⟨hpa, -, -⟩ := TransferAwaited.only_active ha hen
  have htcie := TransferAwaited.active_tcie ha hen
  rw [paused_of_active hen, resumed_of_paused rfl]
  simp [← hptr, hen, hpa, htcie]

theorem LockMatches.exists_holder {l : Lock} {task : List TaskState} {holds : TaskState → Bool}
    (h : LockMatches l task holds) (hmem : ts ∈ task) (hts : holds ts = true) :
    ∃ t, l = .held t ∧ task[t]? = some ts := by
  obtain ⟨t, ht⟩ := List.mem_iff_getElem?.mp hmem
  exact ⟨t, LockMatches.held h ht hts, ht⟩

/-- A task's operation that waits at the phase the task is in is not taken, also once a fault is raised. -/
theorem taskStep_blocked {k : TaskState → Out} (ht : s.task[t]? = some ts) (hk : k ts = .next s) :
    taskStep s t k = .next s := by
  by_cases hf : s.fault = none
  · exact (taskStep_run ⟨hf, ht⟩).trans hk
  · exact taskStep_faulted hf

/-- A task in phase D stays there while its completion is not signalled. -/
theorem exec_awaiting_waits (ht : s.task[t]? = some ts) (hw : ts.awaitsTx = true) (hd : s.tx_done = false) :
    ∃ i, ts.instr t = some i ∧ exec i s = .next s := by
  have hwait : ∀ k, blockUntil s s.takeTxDone k = .next s := fun _ => blockUntil_none (takeTxDone_not_given hd)
  cases ts with
  | sendDma addr size phase =>
    obtain rfl : phase = .d := by simpa [TaskState.awaitsTx] using hw
    exact ⟨_, rfl, taskStep_blocked ht ((if_pos ⟨rfl, rfl⟩).trans (hwait _))⟩
  | sendPacket p phase =>
    obtain rfl : phase = .d := by simpa [TaskState.awaitsTx] using hw
    exact ⟨_, rfl, taskStep_blocked ht ((if_pos rfl).trans (hwait _))⟩
  | idle | sendLowRate | recvTimeout => cases hw

end Sys2Proof.Machine

namespace Sys2Proof

open Machine

/-- Settles O12: the saved counts are those of the active transfer, from which its pointer is computed. -/
theorem resumeUndoesPause : Obligations.ResumeUndoesPause := by
  intro s hinv hf hen
  obtain ⟨-, -, -, ha, hx, -⟩ := hinv
  have hf1 : s.paused.fault = none := by rw [paused_of_active hen]; exact hf
  exact ⟨_, _, exec_pauseTx hf, exec_resumeTx hf1, paused_resumed ha hx hen⟩

/-- Settles O13: the pause is the one sign of the transfer, so it is neither active nor completed nor signalled, and a task
in phase D awaits it. -/
theorem pausedTransferStandsStill : Obligations.PausedTransferStandsStill := by
  intro s hinv hpa
  obtain ⟨-, -, hl, ha, -⟩ := hinv
  obtain ⟨hen, htc, hd⟩ := TransferAwaited.only_paused ha hpa
  obtain ⟨ts, hmem, hw⟩ := TransferAwaited.exists_awaiting ha (by simp [State.transferSigns, hpa])
  obtain ⟨t, hlock, ht⟩ := LockMatches.exists_holder hl.1 hmem (TaskState.holdsTxLock_of_awaitsTx hw)
  obtain ⟨i, hi, hwait⟩ := exec_awaiting_waits ht hw hd
  obtain ⟨-, hbeat⟩ := beatSendsTheByteAtTxPtr s
  obtain ⟨-, -, -, hcomplete⟩ := transmitterEmptiesAndCompletes s
  exact ⟨hbeat (.inl hen), hcomplete (.inr (.inl htc)), t, ts, i, hlock, ht, hw, hi, hwait⟩

/-- Settles O10: the edge by whether the level changes, its service by the level found. -/
theorem edgeIsServicedByItsHook : Obligations.EdgeIsServicedByItsHook := by
  intro s level
  refine ⟨fun hf hne => ?edge, fun heq => ?noEdge, fun hf ha hp hl => ?pause, fun hf ha hp hl => ?resume,
    fun hoff => ?wait⟩
  case edge => exact (liveStep_run hf).trans (if_neg hne)
  case noEdge => exact liveStep_wait (if_pos heq)
  case pause =>
    refine ⟨_, ?_, exec_pauseTx hf⟩
    rw [exec_fcIsr hf ha hp, if_pos (pauseLevel_iff.mpr hl)]
  case resume =>
    refine ⟨_, ?_, exec_resumeTx hf⟩
    rw [exec_fcIsr hf ha hp, if_neg (mt pauseLevel_iff.mp hl)]
  case wait => exact irqStep_wait (.inr hoff)

/-- Settles O11: each hook by whether it applies. -/
theorem pauseAndResumeSaveAndRestore : Obligations.PauseAndResumeSaveAndRestore := by
  intro s hf
  rw [exec_pauseTx hf, exec_resumeTx hf]
  refine ⟨fun h => ?pause, fun h => ?noPause, fun h => ?resume, fun h => ?noResume⟩
  case pause => rw [paused_of_active h]
  case noPause => rw [paused_of_inactive h]
  case resume => rw [resumed_of_paused h]
  case noResume => rw [resumed_of_not_paused h]

end Sys2Proof
end

section
/-! SUPPORT. The receive paths as streams (42_transport_rx.md rule R78): what every effect of an operation does to each of
them, and what a step of a ready block offers to them. -/

namespace Sys2Proof

open Machine

theorem Instr.dmaOffer_of_isFramer {i : Instr} {P : Params} (h : i.isFramer = true) : i.dmaOffer P = [] := by
  cases i <;> simp_all [Instr.dmaOffer, Instr.isFramer]

theorem Instr.irqOffer_of_isFramer {i : Instr} {P : Params} (h : i.isFramer = true) : i.irqOffer P = [] := by
  cases i <;> simp_all [Instr.irqOffer, Instr.isFramer]

end Sys2Proof

namespace Sys2Proof.Machine

variable {i : Instr} {s s' : State}

/-! ### What is offered -/

/-- In a ready block a step without a fault is an effect of the operation offered, or it offers nothing to either path and
touches at most the schedule and the memory. -/
theorem step_effect_or_silent (hr : s.ready = true) (h : step s = .next s') (hf : s'.fault = none) :
    (∃ i rest, s.nextInstr = some i ∧ Effect { s with sched := rest } i s') ∨
    ((∀ i, s.nextInstr = some i → i.dmaOffer s.prm = [] ∧ i.irqOffer s.prm = []) ∧
      s' = { s with sched := s'.sched, mem := s'.mem }) := by
  rcases step_cases h with ⟨hn, rfl | ⟨e, rest, -, rfl⟩⟩ | ⟨i, e, rest, hn, -, h⟩ | ⟨a, v, rest, hn, -, -, -, -, rfl⟩
  · exact .inr ⟨by simp [hn], rfl⟩
  · exact .inr ⟨by simp [hn], rfl⟩
  · rcases exec_effect h with rfl | he
    · rcases offers_nothing hf hr h with he | hoff
      · exact .inl ⟨i, rest, hn, he⟩
      · refine .inr ⟨fun j hj => ?_, rfl⟩
        obtain rfl : i = j := by simpa [hn] using hj
        exact hoff
    · exact .inl ⟨i, rest, hn, he⟩
  · exact .inr ⟨by simp [hn], rfl⟩

/-! ### The DMA path -/

/-- A result that is none of `GET_AVAILABLE`'s adds nothing to the stream of the DMA path. -/
theorem dmaStream_report {t : Nat} {r : Result} (h : r.availableOut = []) : (s.report t r).dmaStream = s.dmaStream := by
  simp [State.dmaStream, State.report, State.rxValid, h]

/-- A poll moves bytes from the head of the stage to the end of what is returned. -/
theorem dmaStream_drained (t max : Nat) :
    ((s.drained max).report t (.available (s.availableBytes max))).dmaStream = s.dmaStream := by
  have hmove : s.availableBytes max ++ (if s.ready && s.rx_done then s.stage.drop max else s.stage) = s.stage := by
    unfold State.availableBytes
    split
    · exact List.take_append_drop max s.stage
    · rfl
  rw [drained_eq]
  simp only [State.dmaStream, State.report, State.rxValid, List.flatMap_append, List.flatMap_singleton,
    Result.availableOut, List.append_assoc]
  rw [← List.append_assoc (s.availableBytes max), hmove]

/-- The hand-off moves the valid bytes to the end of the stage, and the re-armed buffer holds none. -/
theorem dmaStream_handOff : (s.handOff (s.rx_buf.take s.rxValid)).dmaStream = s.dmaStream := by
  simp [State.dmaStream, State.handOff, State.rxValid]

/-- A receive beat stores its byte behind the valid bytes. -/
theorem dmaStream_stored (h : s.ReceiveOk) (hr : s.ready = true) (he : s.rx_en = true) (hn : s.rxValid < s.rx_buf.length)
    (b : Byte) : (s.stored b).dmaStream = s.dmaStream ++ [b] := by
  obtain ⟨-, hle, hen⟩ := h
  have hpos : 0 < s.rx_remaining.toNat := by simpa [he] using hen hr
  have hnext : (s.stored b).rxValid = s.rxValid + 1 := by
    simp only [State.rxValid, State.stored]
    bv_omega
  have htake : (s.stored b).rx_buf.take (s.rxValid + 1) = s.rx_buf.take s.rxValid ++ [b] := by
    simp only [State.stored]
    rw [List.take_add_one, List.take_set_of_le (Nat.le_refl _), List.getElem?_set_self hn, Option.toList_some]
  rw [State.dmaStream, hnext, htake, ← List.append_assoc]
  rfl

/-- An effect adds to the stream of the DMA path the bytes it offers, and nothing else. -/
theorem Effect.dmaStream (h : Effect s i s') (hs : s.ReceiveOk) (hr : s.ready = true) (hf : s'.fault = none) :
    s'.dmaStream = s.dmaStream ++ i.dmaOffer s.prm := by
  have hc := h.flowControlFrame
  cases h with
  | init _ hnr => simp [hr] at hnr
  | offerOverrun => cases hf
  | rxIrq _ _ hd | errorIrq _ _ hd =>
    simp only [setLineError_eq, Instr.dmaOffer, hd, Bool.false_eq_true, if_false]
    exact (List.append_nil _).symm
  | @rxBoth b r _ _ hd he hn =>
    simp only [Instr.dmaOffer, hd, if_true]
    exact dmaStream_stored (s := s.latchIf _ b) hs hr he hn b
  | @errorBoth k b r _ _ hd he hn =>
    rw [setLineError_eq]
    simp only [Instr.dmaOffer, hd, if_true]
    exact dmaStream_stored (s := { s with pe := _, fe := _, ne := _ }.latchIf _ b) hs hr he hn b
  | errorFlag => rw [setLineError_eq]; exact (List.append_nil _).symm
  | handOff =>
    rw [clearCause_eq]
    exact (dmaStream_handOff (s := { s with rx_tcif := _, idle := _ })).trans (List.append_nil _).symm
  | available => exact (dmaStream_drained _ _).trans (List.append_nil _).symm
  | poll _ h1 =>
    rw [(feedBytes_frame h1).frame]
    exact (dmaStream_drained _ _).trans (List.append_nil _).symm
  | feed hi _ h1 =>
    rw [(feedBytes_frame h1).frame, Instr.dmaOffer_of_isFramer hi]
    exact (List.append_nil _).symm
  | dispatch => rw [dispatched_eq]; exact (List.append_nil _).symm
  | dmaAbsent | dmaReturn | packetReturn | recvAbsent | recvTake | expire =>
    exact (dmaStream_report rfl).trans (List.append_nil _).symm
  | dmaProgram _ hp | packetProgram _ hp =>
    obtain ⟨-, -, rfl⟩ := programTx_some hp
    exact (List.append_nil _).symm
  | fcIsr | pause | resume => rw [hc rfl]; exact (List.append_nil _).symm
  | _ => exact (List.append_nil _).symm

/-! ### The byte-interrupt path -/

/-- What a step does to the stream of the byte-interrupt path: it grows by the bytes offered, or loses bytes by overrun or by a
full queue, in order in either case. -/
def IrqStreamGrows (s s' : State) (offer : List Byte) : Prop :=
  s'.irqStream = s.irqStream ++ offer ∨
  (s'.irqStream.Sublist (s.irqStream ++ offer) ∧ (s.rxne = true ∧ offer ≠ [] ∨ byteqCap ≤ s.byteq.length))

theorem IrqStreamGrows.same (h : s'.irqStream = s.irqStream) : IrqStreamGrows s s' [] :=
  .inl (h.trans (List.append_nil _).symm)

/-- A result that is none of `RECV_TIMEOUT`'s adds nothing to the stream of the byte-interrupt path. -/
theorem irqStream_report {t : Nat} {r : Result} (h : r.foundByte = []) : (s.report t r).irqStream = s.irqStream := by
  have hret : (s.report t r).ret.flatMap (fun r => r.2.foundByte) = s.ret.flatMap fun r => r.2.foundByte := by
    simp [State.report, h]
  rw [State.irqStream, hret]
  rfl

/-- A timed read moves the head of the queue to the end of what is returned. -/
theorem irqStream_found {t : Nat} {b : Byte} {rest : List Byte} (hq : s.byteq = b :: rest) :
    ({ s with byteq := rest }.finish t (.found b)).irqStream = s.irqStream := by
  have hret : ({ s with byteq := rest }.finish t (.found b)).ret.flatMap (fun r : Nat × Result => r.2.foundByte) =
      s.ret.flatMap (fun r => r.2.foundByte) ++ [b] := List.flatMap_append
  rw [State.irqStream, hret, State.irqStream, hq, List.append_assoc _ [b]]
  rfl

/-- The data register takes a byte that the path sees, unless it still holds an unread one. -/
theorem irqStream_latchIf (c : Bool) (b : Byte) : IrqStreamGrows s (s.latchIf c b) (if c then [b] else []) := by
  cases c with
  | false => exact .same (by simp [State.irqStream, State.latchIf])
  | true =>
    cases hrx : s.rxne with
    | false => exact .inl (by simp [State.irqStream, State.latchIf, hrx])
    | true =>
      refine .inr ⟨?_, .inl ⟨hrx, by simp⟩⟩
      have hsame : (s.latchIf true b).irqStream = s.irqStream := by simp [State.irqStream, State.latchIf, hrx]
      rw [hsame]
      exact List.sublist_append_left ..

/-- The byte interrupt moves an unread byte from the data register to the end of the queue, or drops it. -/
theorem irqStream_rxne (h : Effect s .rxneIsr s') : IrqStreamGrows s s' [] := by
  cases h with
  | offerOverrun _ _ hi => cases hi
  | feed hi => cases hi
  | rxne =>
    cases hrx : s.rxne with
    | false => exact .same (by simp [State.irqStream, hrx])
    | true =>
      by_cases hq : s.byteq.length < byteqCap
      · exact .same (by simp [State.irqStream, pushByteq, hrx, hq])
      · refine .inr ⟨?_, .inr (Nat.le_of_not_lt hq)⟩
        simp [State.irqStream, pushByteq, hrx, hq]

theorem Effect.irqStream (h : Effect s i s') (hr : s.ready = true) (hf : s'.fault = none) :
    IrqStreamGrows s s' (i.irqOffer s.prm) := by
  have hc := h.flowControlFrame
  cases h with
  | init _ hnr => simp [hr] at hnr
  | offerOverrun => cases hf
  | rxne hf0 ha hp => exact irqStream_rxne (.rxne hf0 ha hp)
  | recvTake _ hq => exact .same (irqStream_found hq)
  | @rxIrq b r | @rxBoth b r => exact irqStream_latchIf (s := s) (irqSees s.prm.rxRoute r) b
  | @errorIrq k b r | @errorBoth k b r =>
    rw [setLineError_eq]
    exact irqStream_latchIf (s := { s with pe := _, fe := _, ne := _ }) (irqSees s.prm.rxRoute r) b
  | errorFlag => rw [setLineError_eq]; exact .same rfl
  | handOff => rw [clearCause_eq]; exact .same rfl
  | available => rw [drained_eq]; exact .same (irqStream_report rfl)
  | poll _ h1 =>
    rw [(feedBytes_frame h1).frame, State.polled, drained_eq]
    exact .same (irqStream_report rfl)
  | feed hi _ h1 =>
    rw [(feedBytes_frame h1).frame, Instr.irqOffer_of_isFramer hi]
    exact .same rfl
  | dispatch => rw [dispatched_eq]; exact .same rfl
  | dmaAbsent | dmaReturn | packetReturn | recvAbsent | expire => exact .same (irqStream_report rfl)
  | dmaProgram _ hp | packetProgram _ hp =>
    obtain ⟨-, -, rfl⟩ := programTx_some hp
    exact .same rfl
  | fcIsr | pause | resume => rw [hc rfl]; exact .same rfl
  | _ => exact .same rfl

end Sys2Proof.Machine

namespace Sys2Proof

open Machine

/-- Settles O20: every effect adds to the stream what it offers, and a step is an effect or offers nothing. -/
theorem receiveStreamLosesNothing : Obligations.ReceiveStreamLosesNothing := by
  intro s s' hinv hr h hf
  obtain ⟨-, -, -, -, -, hs, -⟩ := hinv
  rcases step_effect_or_silent hr h hf with ⟨i, rest, hn, he⟩ | ⟨hoff, hs'⟩
  · simp only [hn]
    exact he.dmaStream hs hr hf
  · rw [hs']
    cases hn : s.nextInstr with
    | none => exact (List.append_nil _).symm
    | some i =>
      obtain ⟨hdma, -⟩ := hoff i hn
      simp only [hdma]
      exact (List.append_nil _).symm

/-- Settles O21: every effect grows the stream by what it offers or loses bytes in the two ways named, and a step is an
effect or offers nothing. -/
theorem byteQueueKeepsArrivalOrder : Obligations.ByteQueueKeepsArrivalOrder := by
  intro s s' offer hr h hf hoffer
  have hgrows : IrqStreamGrows s s' offer := by
    subst hoffer
    rcases step_effect_or_silent hr h hf with ⟨i, rest, hn, he⟩ | ⟨hoff, hs'⟩
    · simp only [hn]
      exact he.irqStream hr hf
    · rw [hs']
      cases hn : s.nextInstr with
      | none => exact .same rfl
      | some i =>
        obtain ⟨-, hirq⟩ := hoff i hn
        simp only [hirq]
        exact .same rfl
  rcases hgrows with heq | ⟨hsub, hlost⟩
  · exact ⟨by rw [heq], fun _ _ => heq⟩
  · refine ⟨hsub, fun hnone hroom => ?_⟩
    rcases hlost with ⟨hrx, hne⟩ | hfull
    · rcases hnone with hrx' | hnil
      · simp [hrx] at hrx'
      · exact absurd hnil hne
    · exact absurd hroom (Nat.not_lt.mpr hfull)

end Sys2Proof
end

section
/-! SUPPORT. The operations of 42_transport_rx.md branch by branch (rules R70 to R77): what each does or that it waits. -/

namespace Sys2Proof.Machine

variable {s s' : State} {t : Nat} {b : Byte} {r : RxDraw} {kind : LineError}

/-! ### Received bytes -/

theorem irqSees_eq (route : RxRoute) (r : RxDraw) : irqSees route r =
    decide (route = .irqOnly ∨ route = .both ∨ (route = .any ∧ (r = .irq ∨ r = .both))) := by
  cases route <;> cases r <;> rfl

theorem dmaSees_eq (route : RxRoute) (r : RxDraw) : dmaSees route r =
    decide (route = .dmaOnly ∨ route = .both ∨ (route = .any ∧ (r = .dma ∨ r = .both))) := by
  cases route <;> cases r <;> rfl

theorem exec_rxByte (hf : s.fault = none) (hr : s.ready = true) : exec (.rxByte b r) s = rxPaths s s b r :=
  receiverStep_run hf hr

theorem exec_rxError_byte (hf : s.fault = none) (hr : s.ready = true) :
    exec (.rxError kind (some b) r) s = rxPaths s (s.setLineError kind) b r :=
  receiverStep_run hf hr

/-- A byte that the DMA path does not see makes the update of the other path alone. -/
theorem rxPaths_unseen {s0 : State} (hd : dmaSees s.prm.rxRoute r = false) :
    rxPaths s s0 b r = .next (s0.latchIf (irqSees s.prm.rxRoute r) b) := by
  simp [rxPaths, latchIf_eq, hd]

/-- A byte offered to an enabled stream is stored, beside the update of the other path. -/
theorem rxPaths_stored {s0 : State} (hd : dmaSees s.prm.rxRoute r = true) (he : s.rx_en = true)
    (hn : s0.rxValid < s0.rx_buf.length) :
    rxPaths s s0 b r = .next ((s0.latchIf (irqSees s.prm.rxRoute r) b).stored b) := by
  have hbeat : (s0.latchIf (irqSees s.prm.rxRoute r) b).rxBeat b =
      some ((s0.latchIf (irqSees s.prm.rxRoute r) b).stored b) := rxBeat_some.mpr ⟨hn, rfl⟩
  simp only [rxPaths, latchIf_eq, hd, he, if_true, hbeat]

/-- A byte offered to an exhausted stream raises the fault and makes no update. -/
theorem rxPaths_overrun {s0 : State} (hd : dmaSees s.prm.rxRoute r = true) (he : s.rx_en = false) :
    rxPaths s s0 b r = .next (s.raiseFault (.rxDmaOverrun b)) := by
  simp [rxPaths, hd, he]

theorem ReceiveOk.rxValid_eq (h : s.ReceiveOk) : s.rxValid = s.prm.rxbufCap.toNat - s.rx_remaining.toNat := by
  obtain ⟨-, hle, -⟩ := h
  rw [State.rxValid]
  bv_omega

/-- An enabled stream of a ready block has room at the index of its next store. -/
theorem ReceiveOk.rxValid_lt (h : s.ReceiveOk) (hr : s.ready = true) (he : s.rx_en = true) :
    s.rxValid < s.rx_buf.length := by
  have hvalid := ReceiveOk.rxValid_eq h
  obtain ⟨hlen, hle, hen⟩ := h
  have hpos : 0 < s.rx_remaining.toNat := by simpa [he] using hen hr
  omega

/-- A beat of an enabled stream; the one that fills the buffer is the one that finds one byte left. -/
theorem stored_eq (h : s.ReceiveOk) (he : s.rx_en = true) : s.stored b = { s with
    rx_buf := s.rx_buf.set (s.prm.rxbufCap.toNat - s.rx_remaining.toNat) b
    rx_remaining := s.rx_remaining - 1
    rx_en := decide (s.rx_remaining ≠ 1)
    rx_tcif := s.rx_tcif || decide (s.rx_remaining = 1) } := by
  have hlast : s.rx_remaining - 1 = 0 ↔ s.rx_remaining = 1 := by bv_omega
  simp only [State.stored, ReceiveOk.rxValid_eq h, hlast, he]
  by_cases h1 : s.rx_remaining = 1 <;> simp [h1, Bool.or_comm]

/-! ### Line errors -/

/-- The flag of a line error is no field of the path updates. -/
theorem setLineError_latchIf (c : Bool) : (s.setLineError kind).latchIf c b = (s.latchIf c b).setLineError kind := by
  rw [setLineError_eq, setLineError_eq]
  rfl

theorem setLineError_stored : (s.setLineError kind).stored b = (s.stored b).setLineError kind := by
  rw [setLineError_eq, setLineError_eq]
  rfl

/-- A byte with a line error makes the updates of that byte and sets the flag, or raises its fault and sets no flag. -/
theorem exec_rxError_of_rxByte (hf : s.fault = none) (hr : s.ready = true) (h : exec (.rxByte b r) s = .next s') :
    (s'.fault = none ∧ s'.pe = s.pe ∧ s'.fe = s.fe ∧ s'.ne = s.ne ∧
      exec (.rxError kind (some b) r) s = .next (s'.setLineError kind)) ∨
    (s'.fault ≠ none ∧ exec (.rxError kind (some b) r) s = .next s') := by
  rw [exec_rxByte hf hr] at h
  rw [exec_rxError_byte hf hr]
  rcases rxPaths_next h with ⟨hd, rfl⟩ | ⟨hd, he, hn, rfl⟩ | ⟨hd, he, rfl⟩
  · refine .inl ⟨hf, rfl, rfl, rfl, ?_⟩
    rw [rxPaths_unseen hd, setLineError_latchIf]
  · have hn : (s.setLineError kind).rxValid < (s.setLineError kind).rx_buf.length := by rw [setLineError_eq]; exact hn
    refine .inl ⟨hf, rfl, rfl, rfl, ?_⟩
    rw [rxPaths_stored hd he hn, setLineError_latchIf, setLineError_stored]
  · exact .inr ⟨nofun, rxPaths_overrun hd he⟩

/-! ### Service steps -/

theorem rxnePending_iff : s.rxnePending = true ↔
    s.rxne = true ∨ s.pe = true ∨ s.fe = true ∨ s.ne = true ∨ s.ore = true := by
  simp only [State.rxnePending, Bool.or_eq_true, or_assoc]

theorem rxCompletePending_iff {cause : RxCause} : s.rxCompletePending cause = true ↔
    cause = .tc ∧ s.rx_tcif = true ∨ cause = .idle ∧ s.idle = true := by
  cases cause <;> simp [State.rxCompletePending]

theorem pushByteq_if (c : Bool) (q : List Byte) :
    (if c then pushByteq q b else q) = if c = true ∧ q.length < 1024 then q ++ [b] else q := by
  cases c with
  | false => rfl
  | true => exact (if_pos rfl).trans (if_congr (and_iff_right rfl).symm rfl rfl)

/-- The hand-off of the valid bytes, in a pending service whose bytes fit the stage. -/
theorem exec_rxCompleteIsr_handOff {cause : RxCause} (hs : s.ReceiveOk) (hf : s.fault = none) (ha : s.armed = true)
    (hp : s.rxCompletePending cause = true) (hfit : s.stage.length + s.rxValid ≤ s.prm.stageCap) :
    exec (.rxCompleteIsr cause) s = .next ((s.clearCause cause).handOff (s.rx_buf.take s.rxValid)) := by
  refine (irqStep_run hf ha hp).trans ?_
  rw [if_neg (Nat.not_lt.mpr hfit), readPrefix_rxValid hs]

theorem exec_rxCompleteIsr_overflow {cause : RxCause} (hf : s.fault = none) (ha : s.armed = true)
    (hp : s.rxCompletePending cause = true) (hover : s.prm.stageCap < s.stage.length + s.rxValid) :
    exec (.rxCompleteIsr cause) s = .next (s.raiseFault (.rxStageOverflow s.stage.length s.rxValid)) :=
  (irqStep_run hf ha hp).trans (if_pos hover)

/-! ### Reads -/

theorem exec_getAvailable_idle {max : Nat} (h : s.TaskIs t .idle) (ht : t = s.prm.framingTask) :
    exec (.getAvailable t max) s = .next ((s.drained max).report t (.available (s.availableBytes max))) :=
  (taskStep_run h).trans (if_neg (not_not_intro ht))

end Sys2Proof.Machine

namespace Sys2Proof

open Machine

/-- Settles O14, by which paths see the byte and whether the stream is enabled. -/
theorem receivedByteGoesDownItsPaths : Obligations.ReceivedByteGoesDownItsPaths := by
  intro s b r irq dma hf hirq hdma
  rw [← irqSees_eq] at hirq
  rw [← dmaSees_eq] at hdma
  subst hirq hdma
  refine ⟨fun hr => receiverStep_silent hr, fun hr hd => ?unseen, fun hr hd he hs => ?stored, fun hr hd he => ?overrun⟩
  case unseen => exact (exec_rxByte hf hr).trans (rxPaths_unseen hd)
  case stored =>
    rw [exec_rxByte hf hr, rxPaths_stored hd he (ReceiveOk.rxValid_lt hs hr he),
      stored_eq (s := s.latchIf _ b) hs he]
    rfl
  case overrun => exact (exec_rxByte hf hr).trans (rxPaths_overrun hd he)

/-- Settles O15: the flag commutes with the path updates, and a fault of these leaves it out. -/
theorem lineErrorSetsItsFlag : Obligations.LineErrorSetsItsFlag := by
  intro s kind r hf
  refine ⟨fun d hr => receiverStep_silent hr, fun hr => ?flag, fun b s' hr h hf' => ?byte, fun b s' hr h hf' => ?fault⟩
  case flag =>
    rw [← setLineError_eq]
    exact receiverStep_run hf hr
  case byte =>
    rcases exec_rxError_of_rxByte (kind := kind) hf hr h with ⟨-, hpe, hfe, hne, he⟩ | ⟨hne, -⟩
    · rw [he, setLineError_eq, hpe, hfe, hne]
    · exact absurd hf' hne
  case fault =>
    rcases exec_rxError_of_rxByte (kind := kind) hf hr h with ⟨hnone, -⟩ | ⟨-, he⟩
    · exact absurd hnone hf'
    · exact he

/-- Settles O17, by whether the cause is pending and whether the valid bytes fit the stage. -/
theorem receiveCompletionHandsOff : Obligations.ReceiveCompletionHandsOff := by
  intro s cause n hs hn
  rw [← ReceiveOk.rxValid_eq hs] at hn
  subst hn
  refine ⟨fun hf ha hp hfit => ?handOff, fun hf ha hp hover => ?overflow, fun hoff => ?wait⟩
  case handOff =>
    have hlen : (s.rx_buf.take s.rxValid).length = s.rxValid := List.length_take_of_le (ReceiveOk.rxValid_le hs)
    rw [exec_rxCompleteIsr_handOff hs hf ha (rxCompletePending_iff.mpr hp) hfit, clearCause_eq, State.handOff, hlen]
    simp only [List.map_const', hs.1]
  case overflow => exact exec_rxCompleteIsr_overflow hf ha (rxCompletePending_iff.mpr hp) hover
  case wait =>
    refine irqStep_wait (.inr (hoff.imp_right fun h => ?_))
    rcases h with ⟨rfl, h⟩ | ⟨rfl, h⟩ <;> exact h

/-- Settles O16: the idle line by readiness, the byte interrupt by whether one of its flags stands. -/
theorem idleLineAndByteInterrupt : Obligations.IdleLineAndByteInterrupt := by
  intro s
  refine ⟨fun hf hr => receiverStep_run hf hr, fun hr => receiverStep_silent hr, fun hf ha hp => ?service,
    fun hoff => ?wait⟩
  case service =>
    rw [← pushByteq_if]
    exact irqStep_run hf ha (rxnePending_iff.mpr hp)
  case wait =>
    refine irqStep_wait (.inr (hoff.imp_right fun ⟨h1, h2, h3, h4, h5⟩ => ?_))
    simp [State.rxnePending, h1, h2, h3, h4, h5]

/-- Settles O18, by what the task is doing and whether the queue holds a byte. -/
theorem timedReadTakesOneByteOrNone : Obligations.TimedReadTakesOneByteOrNone := by
  intro s t timeout
  refine ⟨fun h hr => ?absent, fun h hr => ?entry, fun b rest h hq => ⟨?take, ?early⟩, fun h hq => ⟨?blocked, ?expire⟩,
    fun ts h hne => ?other⟩
  case absent => exact (taskStep_run h).trans (if_neg (by simp [hr]))
  case entry => exact (taskStep_run h).trans (if_pos hr)
  case take =>
    refine (taskStep_run h).trans ?_
    simp only [hq]
    rfl
  case early => exact (taskStep_run h).trans (if_neg (by simp [hq]))
  case blocked =>
    refine (taskStep_run h).trans ?_
    simp only [hq, waits_eq]
  case expire => exact (taskStep_run h).trans (if_pos hq)
  case other =>
    refine (taskStep_run h).trans ?_
    cases ts with
    | recvTimeout => exact absurd rfl hne
    | idle | sendLowRate | sendDma | sendPacket => rfl

/-- Settles O19: the framing task by whether a hand-off is signalled, any other caller by the refusal. -/
theorem pollDrainsTheStage : Obligations.PollDrainsTheStage := by
  intro s t max
  refine ⟨fun h ht hoff => ?nothing, fun h ht hr hd => ?drain, fun ts h ht => (taskStep_run h).trans (if_pos ht)⟩
  case nothing =>
    have hno : ¬ (s.ready && s.rx_done) = true := by rcases hoff with h | h <;> simp [h]
    rw [exec_getAvailable_idle h ht, State.drained, State.availableBytes, if_neg hno, if_neg hno]
    rfl
  case drain =>
    have hyes : (s.ready && s.rx_done) = true := by simp [hr, hd]
    have hdone : (if s.stage.drop max = [] then false else s.rx_done) = decide (s.stage.drop max ≠ []) := by
      split <;> simp_all
    rw [exec_getAvailable_idle h ht, State.drained, State.availableBytes, if_pos hyes, if_pos hyes, hdone]
    rfl

end Sys2Proof
end

section
/-! SUPPORT. The two receive paths side by side (42_transport_rx.md rule R79): which fields each step writes, that a step
runs alike whatever the other path holds, and the update of a received byte in each path by itself. -/

namespace Sys2Proof

/-- The steps of the byte-interrupt path, with the idle line, which touches neither path. -/
def Instr.isIrqPath (i : Instr) : Bool :=
  match i with
  | .rxneIsr | .recvTimeout _ _ | .timeoutExpire _ | .rxIdle => true
  | _ => false

/-- The steps of the DMA path, with the idle line, which touches neither path. -/
def Instr.isDmaPath (i : Instr) : Bool :=
  match i with
  | .rxCompleteIsr _ | .getAvailable _ _ | .framerPoll | .rxIdle => true
  | _ => false

/-- The receptions, which make one update in each path (rules R70, R71). -/
def Instr.isReception (i : Instr) : Bool :=
  match i with
  | .rxByte _ _ | .rxError _ _ _ => true
  | _ => false

theorem Instr.isIrqPath_of_isFramer {i : Instr} (h : i.isFramer = true) : i.isIrqPath = false := by
  cases i <;> simp_all [Instr.isIrqPath, Instr.isFramer]

theorem Instr.isReception_of_isFramer {i : Instr} (h : i.isFramer = true) : i.isReception = false := by
  cases i <;> simp_all [Instr.isReception, Instr.isFramer]

end Sys2Proof

namespace Sys2Proof.Machine

variable {i : Instr} {s s' u : State} {t : Nat} {o o' : Out}

/-! ### What a step writes -/

theorem Effect.leavesDmaPath (h : Effect s i s') (hi : i.isIrqPath = true) : s'.withDmaPath s = s' := by
  cases h with
  | feed hfr => simp [Instr.isIrqPath_of_isFramer hfr] at hi
  | offerOverrun | rxne | recvAbsent | recvEntry | recvTake | expire | rxIdle => rfl
  | _ => cases hi

theorem Effect.leavesIrqPath (h : Effect s i s') (hi : i.isDmaPath = true) : s'.withIrqPath s = s' := by
  cases h with
  | handOff => rw [clearCause_eq]; rfl
  | available => rw [drained_eq]; rfl
  | poll _ h1 => rw [(feedBytes_frame h1).frame, polled_eq]; rfl
  | feed _ _ h1 => rw [(feedBytes_frame h1).frame]; rfl
  | offerOverrun | stageOverflow | rxIdle => rfl
  | _ => cases hi

/-! ### What a step reads -/

/-- The second outcome is the first one changed by `f`, where the first is a next state. -/
def Follows (f : State → State) (o o' : Out) : Prop := ∀ s', o = .next s' → o' = .next (f s')

section

variable {f : State → State}

theorem Follows.next (s : State) : Follows f (.next s) (.next (f s)) := by
  rintro _ ⟨⟩
  rfl

theorem Follows.ite {c : Prop} [Decidable c] {k k' l l' : Out} (hk : Follows f k k') (hl : Follows f l l') :
    Follows f (if c then k else l) (if c then k' else l') := by
  split
  · exact hk
  · exact hl

theorem Follows.refused (r : Refusal) : Follows f (.refused r) o' := by
  intro _ h
  cases h

theorem Follows.fault (r : Fault) : Follows f (.fault r) o' := by
  intro _ h
  cases h

theorem Follows.taskStep {k k' : TaskState → Out} (hf : (f s).fault = s.fault) (ht : (f s).task = s.task)
    (hk : ∀ ts, Follows f (k ts) (k' ts)) : Follows f (taskStep s t k) (taskStep (f s) t k') := by
  unfold Machine.taskStep
  rw [hf, ht]
  refine .ite (.next s) ?_
  split
  · exact .refused _
  · exact hk _

theorem Follows.irqStep {k k' : Out} {p p' : Bool} (he : (f s).serviceEnabled p' = s.serviceEnabled p)
    (hk : Follows f k k') : Follows f (irqStep s p k) (irqStep (f s) p' k') := by
  unfold Machine.irqStep
  rw [he]
  exact .ite hk (.next s)

end

/-- A step of the byte-interrupt path runs alike whatever the DMA path holds. -/
theorem exec_withDmaPath (u : State) (hi : i.isIrqPath = true) :
    Follows (State.withDmaPath · u) (exec i s) (exec i (s.withDmaPath u)) := by
  cases i with
  | rxneIsr => exact .irqStep rfl (.next _)
  | rxIdle => exact .ite (.next s) (.ite (.next _) (.next s))
  | recvTimeout t n =>
    refine .taskStep rfl rfl fun ts => ?_
    cases ts with
    | idle => exact .ite (.next _) (.next _)
    | recvTimeout =>
      simp only [State.withDmaPath_byteq]
      cases s.byteq with
      | nil => exact .next s
      | cons b rest => exact .next ({ s with byteq := rest }.finish t (.found b))
    | sendLowRate | sendDma | sendPacket => exact .next s
  | timeoutExpire t =>
    refine .taskStep rfl rfl fun ts => ?_
    cases ts with
    | recvTimeout => exact .ite (.next _) (.next s)
    | idle | sendLowRate | sendDma | sendPacket => exact .next s
  | _ => cases hi

theorem rxValid_withIrqPath : (s.withIrqPath u).rxValid = s.rxValid := rfl

/-- A step of the DMA path runs alike whatever the byte-interrupt path holds. -/
theorem exec_withIrqPath (u : State) (hi : i.isDmaPath = true) :
    Follows (State.withIrqPath · u) (exec i s) (exec i (s.withIrqPath u)) := by
  cases i with
  | rxIdle => exact .ite (.next s) (.ite (.next _) (.next s))
  | rxCompleteIsr c =>
    refine .irqStep (by cases c <;> rfl) (.ite (.next _) ?_)
    simp only [State.withIrqPath_rx_buf, rxValid_withIrqPath]
    cases readPrefix s.rx_buf s.rxValid with
    | none => exact .fault _
    | some got => cases c <;> exact .next _
  | getAvailable t n =>
    refine .taskStep rfl rfl fun ts => .ite (.refused _) ?_
    cases ts with
    | idle =>
      simp only [drained_eq]
      exact .next _
    | sendLowRate | sendDma | sendPacket | recvTimeout => exact .next s
  | framerPoll =>
    refine .taskStep rfl rfl fun ts => ?_
    cases ts with
    | idle =>
      simp only [drained_eq]
      exact fun _ => feedBytes_withIrqPath u
    | sendLowRate | sendDma | sendPacket | recvTimeout => exact .next s
  | _ => cases hi

/-! ### The two updates of a reception -/

/-- The receiver takes in what the line brings: it is configured, and no fault is raised. -/
abbrev State.Listens (s : State) : Prop := s.fault = none ∧ s.ready = true

/-- The line error flag and the update of the byte-interrupt path that a reception makes. -/
def State.irqUpdated (s : State) (i : Instr) : State :=
  match i with
  | .rxByte b r => s.latchIf (irqSees s.prm.rxRoute r) b
  | .rxError k none _ => s.setLineError k
  | .rxError k (some b) r => (s.setLineError k).latchIf (irqSees s.prm.rxRoute r) b
  | _ => s

/-- The update of the DMA path that a reception makes, its overrun included. -/
def State.dmaUpdated (s : State) (i : Instr) : State :=
  match i.dmaOffer s.prm with
  | [] => s
  | b :: _ => if s.rx_en then s.stored b else s.raiseFault (.rxDmaOverrun b)

theorem exec_reception (hi : i.isReception = true) (h : exec i s = .next s') :
    (¬ s.Listens ∧ s' = s) ∨ (s.Listens ∧ Effect s i s') := by
  by_cases hl : s.Listens
  · obtain ⟨hf, hr⟩ := hl
    cases i with
    | rxByte => exact .inr ⟨⟨hf, hr⟩, rxByte_effect hf hr h⟩
    | rxError => exact .inr ⟨⟨hf, hr⟩, rxError_effect hf hr h⟩
    | _ => cases hi
  · refine .inl ⟨hl, ?_⟩
    have hwait : ∀ k, receiverStep s k = .next s' → s' = s := fun k hk =>
      (receiverStep_next hk).resolve_right fun ⟨hf, hr, _⟩ => hl ⟨hf, hr⟩
    cases i with
    | rxByte => exact hwait _ h
    | rxError => exact hwait _ h
    | _ => cases hi

/-- Outside the DMA path a reception makes the update of the byte-interrupt path, unless it raises a fault. -/
theorem Effect.reception_irq (h : Effect s i s') (hi : i.isReception = true) (hf : s'.fault = none) :
    s' = (s.irqUpdated i).withDmaPath s' := by
  cases h with
  | offerOverrun => cases hf
  | rxIrq | rxBoth => rfl
  | errorFlag | errorIrq | errorBoth => simp only [State.irqUpdated, setLineError_eq]; rfl
  | feed hfr => simp [Instr.isReception_of_isFramer hfr] at hi
  | _ => cases hi

/-- Outside the byte-interrupt path a reception makes the update of the DMA path. -/
theorem Effect.reception_dma (h : Effect s i s') (hi : i.isReception = true) :
    s' = (s.dmaUpdated i).withIrqPath s' := by
  cases h with
  | offerOverrun _ _ hd he => simp only [State.dmaUpdated, hd, he]; rfl
  | rxIrq _ _ hd => simp only [State.dmaUpdated, Instr.dmaOffer, hd]; rfl
  | rxBoth _ _ hd he => simp only [State.dmaUpdated, Instr.dmaOffer, hd, he, if_true]; rfl
  | errorFlag => rw [setLineError_eq]; rfl
  | errorIrq _ _ hd => simp only [State.dmaUpdated, Instr.dmaOffer, hd, setLineError_eq]; rfl
  | errorBoth _ _ hd he =>
    simp only [State.dmaUpdated, Instr.dmaOffer, hd, if_true]
    rw [if_pos he, setLineError_eq]
    rfl
  | feed hfr => simp [Instr.isReception_of_isFramer hfr] at hi
  | _ => cases hi

theorem irqUpdated_withDmaPath (hi : i.isReception = true) :
    (s.withDmaPath u).irqUpdated i = (s.irqUpdated i).withDmaPath u := by
  cases i with
  | rxByte => rfl
  | rxError k d => cases d <;> simp only [State.irqUpdated, setLineError_eq] <;> rfl
  | _ => cases hi

theorem dmaUpdated_withIrqPath : (s.withIrqPath u).dmaUpdated i = (s.dmaUpdated i).withIrqPath u := by
  unfold State.dmaUpdated
  simp only [State.withIrqPath_prm, State.withIrqPath_rx_en]
  cases i.dmaOffer s.prm with
  | nil => rfl
  | cons b =>
    by_cases he : s.rx_en = true
    · simp only [if_pos he]
      exact if_pos he
    · simp only [if_neg he]
      exact if_neg he

/-- A reception does the same outside the DMA path whatever that path holds, if neither run raises a fault. -/
theorem reception_withDmaPath {s'' : State} (hi : i.isReception = true) (h : exec i s = .next s')
    (hu : exec i (s.withDmaPath u) = .next s'') (hf : s'.fault = none) (hfu : s''.fault = none) :
    s'' = s'.withDmaPath s'' := by
  rcases exec_reception hi h with ⟨hl, rfl⟩ | ⟨hl, he⟩ <;> rcases exec_reception hi hu with ⟨hlu, rfl⟩ | ⟨hlu, heu⟩
  · rfl
  · exact absurd hlu hl
  · exact absurd hl hlu
  · calc s'' = ((s.withDmaPath u).irqUpdated i).withDmaPath s'' := heu.reception_irq hi hfu
      _ = ((s.irqUpdated i).withDmaPath s').withDmaPath s'' := by rw [irqUpdated_withDmaPath hi]; rfl
      _ = s'.withDmaPath s'' := by rw [← he.reception_irq hi hf]

/-- A reception does the same outside the byte-interrupt path whatever that path holds. -/
theorem reception_withIrqPath {s'' : State} (hi : i.isReception = true) (h : exec i s = .next s')
    (hu : exec i (s.withIrqPath u) = .next s'') : s'' = s'.withIrqPath s'' := by
  rcases exec_reception hi h with ⟨hl, rfl⟩ | ⟨hl, he⟩ <;> rcases exec_reception hi hu with ⟨hlu, rfl⟩ | ⟨hlu, heu⟩
  · rfl
  · exact absurd hlu hl
  · exact absurd hl hlu
  · calc s'' = ((s.withIrqPath u).dmaUpdated i).withIrqPath s'' := heu.reception_dma hi
      _ = ((s.dmaUpdated i).withIrqPath s').withIrqPath s'' := by rw [dmaUpdated_withIrqPath]; rfl
      _ = s'.withIrqPath s'' := by rw [← he.reception_dma hi]

/-- A reception that the DMA path does not see leaves it alone. -/
theorem reception_unseen_by_dma (hi : i.isReception = true) (h : exec i s = .next s') (hd : i.dmaOffer s.prm = []) :
    s'.withDmaPath s = s' := by
  rcases exec_reception hi h with ⟨-, rfl⟩ | ⟨-, he⟩
  · rfl
  · have hs' : s' = s.withIrqPath s' := by simpa only [State.dmaUpdated, hd] using he.reception_dma hi
    rw [hs']
    rfl

/-- A reception that the byte-interrupt path does not see leaves it alone, but for the flag of a line error. -/
theorem reception_unseen_by_irq (hi : i.isReception = true) (h : exec i s = .next s') (hq : i.irqOffer s.prm = []) :
    s'.rdr = s.rdr ∧ s'.rxne = s.rxne ∧ s'.ore = s.ore ∧ s'.byteq = s.byteq ∧
    ((∃ b r, i = .rxByte b r) → s'.withIrqPath s = s') := by
  have hunseen : ∀ {c : Bool} {b : Byte}, (if c then [b] else []) = ([] : List Byte) → c = false := by
    rintro ⟨⟩ b h <;> simp_all
  rcases exec_reception hi h with ⟨-, rfl⟩ | ⟨-, he⟩
  · exact ⟨rfl, rfl, rfl, rfl, fun _ => rfl⟩
  cases he with
  | offerOverrun => exact ⟨rfl, rfl, rfl, rfl, fun _ => rfl⟩
  | rxIrq | rxBoth =>
    rw [hunseen hq]
    simp [State.latchIf, State.stored, State.withIrqPath, State.rxValid]
  | errorFlag => rw [setLineError_eq]; exact ⟨rfl, rfl, rfl, rfl, nofun⟩
  | errorIrq | errorBoth =>
    rw [hunseen hq, setLineError_eq]
    simp [State.latchIf, State.stored]
  | feed hfr => simp [Instr.isReception_of_isFramer hfr] at hi
  | _ => cases hi

end Sys2Proof.Machine

namespace Sys2Proof

open Machine

/-- Settles O22: the steps of each path by the fields they write and by running alike whatever the other path holds, the
receptions by their update in each path. -/
theorem receivePathsDoNotInteract : Obligations.ReceivePathsDoNotInteract := by
  intro i s s' u h
  refine ⟨fun hi => ?irq, fun hi => ?dma, fun hi => ?both⟩
  case irq =>
    have hi : i.isIrqPath = true := by rcases hi with rfl | ⟨t, n, rfl⟩ | ⟨t, rfl⟩ | rfl <;> rfl
    refine ⟨?_, exec_withDmaPath u hi s' h⟩
    rcases exec_effect h with rfl | he
    · rfl
    · exact he.leavesDmaPath hi
  case dma =>
    have hi : i.isDmaPath = true := by rcases hi with ⟨c, rfl⟩ | ⟨t, n, rfl⟩ | rfl | rfl <;> rfl
    refine ⟨?_, exec_withIrqPath u hi s' h⟩
    rcases exec_effect h with rfl | he
    · rfl
    · exact he.leavesIrqPath hi
  case both =>
    have hi : i.isReception = true := by rcases hi with ⟨b, r, rfl⟩ | ⟨k, d, r, rfl⟩ <;> rfl
    exact ⟨fun s'' => reception_withDmaPath hi h, fun s'' => reception_withIrqPath hi h,
      reception_unseen_by_dma hi h, reception_unseen_by_irq hi h⟩

end Sys2Proof
end

section
/-! SUPPORT. What the framer's transition does in each of its states, as one next state (43_framer.md rules R81 to R87), and
each row of the table as that or a wait. -/

namespace Sys2Proof.Machine

variable {s s' : State} {b : Byte}

theorem goto_self {x : FramerState} (h : s.fs = x) : s.goto x = s := by
  subst h
  rfl

theorem toNat_pos_iff_ne_zero : 0 < b.toNat ↔ b ≠ 0 :=
  Nat.pos_iff_ne_zero.trans (BitVec.toNat_ne_iff_ne (y := 0))

/-! ### The transition, state by state -/

theorem feedByte_waitStart1 (h : s.fs = .waitStart1) :
    feedByte b s = .next (s.goto (if b = startByte1 then .waitStart2 else .waitStart1)) := by
  simp only [feedByte, h, feedWaitStart1]
  split
  · rfl
  · rw [goto_self h]

theorem feedByte_waitStart2 (h : s.fs = .waitStart2) :
    feedByte b s = .next (s.goto (if b = startByte2 then .waitType else .waitStart1)) := by
  simp only [feedByte, h, feedWaitStart2]
  split <;> rfl

theorem feedByte_waitType (h : s.fs = .waitType) :
    feedByte b s = .next { s with f_type := b, f_ck0 := b, f_ck1 := b, fs := .waitLength } := by
  simp only [feedByte, h]
  rfl

theorem feedByte_waitLength_oversize (h : s.fs = .waitLength) (hb : s.prm.mtu < b) :
    feedByte b s = .next (s.lengthRejected b) := by
  simp only [feedByte, h, feedWaitLength, if_pos hb]

theorem feedByte_waitLength_accepted (h : s.fs = .waitLength) (hb : b ≤ s.prm.mtu) :
    feedByte b s = .next ((s.lengthTaken b).goto (if 0 < b.toNat then .waitData else .waitChecksum1)) := by
  simp only [feedByte, h, feedWaitLength, if_neg (BitVec.not_lt.mpr hb), toNat_pos_iff_ne_zero, ite_not]

/-- `s` with a payload byte stored at `f_idx` and folded, and the framer in state `x` (rules R85, R88). -/
def State.payloadByte (s : State) (b : Byte) (x : FramerState) : State := { s with
  f_data := s.f_data.set s.f_idx b
  f_ck0 := s.f_ck0 + b
  f_ck1 := s.f_ck1 + (s.f_ck0 + b)
  f_idx := s.f_idx + 1
  fs := x }

theorem feedByte_waitData (h : s.fs = .waitData) (hidx : s.f_idx < s.f_data.length) :
    feedByte b s =
      .next (s.payloadByte b (if s.f_idx + 1 = s.f_length.toNat then .waitChecksum1 else .waitData)) := by
  simp only [feedByte, h, feedWaitData, dataTaken_eq hidx]
  split <;> rfl

theorem feedByte_waitChecksum1 (h : s.fs = .waitChecksum1) :
    feedByte b s = .next (s.goto (if b = s.f_ck0 then .waitChecksum2 else .waitStart1)) := by
  simp only [feedByte, h, feedWaitChecksum1]
  split <;> rfl

theorem feedByte_waitChecksum2_mismatch (h : s.fs = .waitChecksum2) (hb : b ≠ s.f_ck1) :
    feedByte b s = .next (s.goto .waitStart1) := by
  simp only [feedByte, h, feedWaitChecksum2, if_neg hb]

/-- The packet in the framer's registers (rule R87). -/
def State.framedPacket (s : State) : Packet where
  type := s.f_type
  length := s.f_length
  data := s.f_data.take s.f_length.toNat

theorem feedByte_waitChecksum2_match (h : s.fs = .waitChecksum2) (hb : b = s.f_ck1)
    (hlen : s.f_length.toNat ≤ s.f_data.length) :
    feedByte b s = .next ((s.dispatched s.framedPacket).goto .waitStart1) := by
  simp only [feedByte, h, feedWaitChecksum2, if_pos hb, assembled_eq hlen]
  rfl

theorem FramerOk.f_idx_lt (h : s.FramerOk) (hfs : s.fs = .waitData) : s.f_idx < s.f_data.length := by
  obtain ⟨harr, hdata, -⟩ := h
  obtain ⟨hlt, hle⟩ := hdata hfs
  exact harr ▸ Nat.lt_of_lt_of_le hlt hle

theorem FramerOk.f_length_le (h : s.FramerOk) (hfs : s.fs = .waitChecksum2) :
    s.f_length.toNat ≤ s.f_data.length := by
  obtain ⟨harr, -, hck⟩ := h
  exact harr ▸ (hck (.inr hfs)).2

/-! ### `FEED` and `DISPATCH` of an idle framing task -/

theorem exec_feed (hi : s.FramerIdle) : exec (.feed b) s = feedByte b s := framerStep_run hi

theorem exec_dispatch {p : Packet} (hi : s.FramerIdle) (hp : p.wf = true) :
    exec (.dispatch p) s = .next (s.dispatched p) :=
  (framerStep_run hi).trans (if_pos hp)

theorem framedPacket_wf (hlen : s.f_length.toNat ≤ s.f_data.length) : s.framedPacket.wf = true := by
  simp [Packet.wf, State.framedPacket, hlen]

/-! ### The rows -/

/-- A row that completes is taken exactly under its condition. -/
theorem feedRowStep_ite {x : FramerState} {c : Bool} {p : Prop} [Decidable p] (hi : s.FramerIdle)
    (hp : s.fs = x ∧ c = true ↔ p) : feedRowStep s x c (.next s') = .next (if p then s' else s) := by
  simp only [feedRowStep, framerStep_run hi, hp, waits_eq]
  split <;> rfl

/-- Folding a length of zero leaves the first sum as it is. -/
theorem lengthTaken_zero : s.lengthTaken 0 = { s with f_length := 0, f_ck1 := s.f_ck1 + s.f_ck0, f_idx := 0 } := by
  simp [State.lengthTaken, State.fold, foldCk]

theorem lengthDataCond_iff : (b != 0 && decide (b ≤ s.prm.mtu)) = true ↔ 1 ≤ b.toNat ∧ b.toNat ≤ s.prm.mtu.toNat := by
  rw [Bool.and_eq_true, bne_iff, decide_eq_true_eq, ← toNat_pos_iff_ne_zero]
  rfl

/-- The row selected by the state and the byte is the transition. -/
theorem exec_of_feedRow_eq {i : Instr} (hi : s.FramerIdle) (hok : s.FramerOk) (h : s.feedRow b = i) :
    exec i s = feedByte b s := h ▸ exec_feedRow hi hok

end Sys2Proof.Machine

namespace Sys2Proof

open Machine

/-- Settles O23, by the transition in each of the two states. -/
theorem framerHuntsForStartBytes : Obligations.FramerHuntsForStartBytes := by
  intro s b hi
  exact ⟨fun h => (exec_feed hi).trans (feedByte_waitStart1 h), fun h => (exec_feed hi).trans (feedByte_waitStart2 h)⟩

/-- Settles O24, by the transition in each of the two states, a length byte by whether it is within `MTU`. -/
theorem framerTakesTypeAndLength : Obligations.FramerTakesTypeAndLength := by
  intro s b hi
  exact ⟨fun h => (exec_feed hi).trans (feedByte_waitType h),
    fun h hb => (exec_feed hi).trans (feedByte_waitLength_oversize h hb),
    fun h hb => (exec_feed hi).trans (feedByte_waitLength_accepted h hb)⟩

/-- Settles O25: the invariant puts `f_idx` inside `f_data`. -/
theorem framerTakesPayload : Obligations.FramerTakesPayload := by
  intro s b hi hok h
  exact (exec_feed hi).trans (feedByte_waitData h (FramerOk.f_idx_lt hok h))

/-- Settles O26: the invariant puts the whole payload inside `f_data`, so the assembled packet is one to dispatch. -/
theorem framerChecksBothSums : Obligations.FramerChecksBothSums := by
  intro s b hi hok
  refine ⟨fun h => (exec_feed hi).trans (feedByte_waitChecksum1 h),
    fun h hb => (exec_feed hi).trans (feedByte_waitChecksum2_mismatch h hb), fun h hb => ?_⟩
  have hlen := FramerOk.f_length_le hok h
  exact ⟨_, exec_dispatch hi (framedPacket_wf hlen), (exec_feed hi).trans (feedByte_waitChecksum2_match h hb hlen)⟩

/-- Settles O28: each row is taken exactly under its condition. -/
theorem rowsUpToLengthComplete : Obligations.RowsUpToLengthComplete := by
  intro s b hi
  refine ⟨?start1Sync, fun ⟨hfs, hb⟩ => ?start1Other, fun h => ?start1Wait, ?start2Sync, ?start2Other, ?typeAny,
    ?lengthOversize, ?lengthZero, ?lengthData⟩
  case start1Sync => exact feedRowStep_ite hi (and_iff_left rfl)
  case start1Other => exact (feedRowStep_run hi hfs (bne_iff.mpr hb)).trans (congrArg _ (goto_self hfs).symm)
  case start1Wait => exact feedRowStep_wait hi (h.imp_right fun hb => bne_eq_false_iff_eq.mpr hb)
  case start2Sync => exact feedRowStep_ite hi (and_iff_left rfl)
  case start2Other => exact feedRowStep_ite hi (and_congr_right' bne_iff)
  case typeAny => exact feedRowStep_ite hi (and_iff_left rfl)
  case lengthOversize => exact feedRowStep_ite hi (and_congr_right' decide_eq_true_iff)
  case lengthZero =>
    refine (feedRowStep_ite hi (and_iff_left rfl)).trans ?_
    rw [lengthTaken_zero]
    rfl
  case lengthData => exact feedRowStep_ite hi (and_congr_right' lengthDataCond_iff)

/-- Settles O29: the rows that read or store an array are the selected ones, so the transition of `FEED`; the others are
taken exactly under their condition. -/
theorem rowsFromDataComplete : Obligations.RowsFromDataComplete := by
  intro s b hi hok
  refine ⟨fun i hrow hfs => ?data, fun h => ?lastWait, fun h => ?moreWait, ?check1Match, ?check1Mismatch,
    fun hfs hb => ?check2Match, fun h => ?check2Wait, ?check2Mismatch⟩
  case data =>
    have hidx := FramerOk.f_idx_lt hok hfs
    rcases hrow with ⟨rfl, hmore⟩ | ⟨rfl, hlast⟩
    · have hrow : s.feedRow b = .feedWaitDataMore b := by simp only [State.feedRow, hfs, if_pos hmore]
      rw [exec_of_feedRow_eq hi hok hrow, feedByte_waitData hfs hidx, if_neg (Nat.ne_of_lt hmore)]
      rfl
    · have hrow : s.feedRow b = .feedWaitDataLast b := by simp only [State.feedRow, hfs, hlast, lt_irrefl, if_false]
      rw [exec_of_feedRow_eq hi hok hrow, feedByte_waitData hfs hidx, if_pos hlast, if_pos rfl]
      rfl
  case lastWait => exact feedRowStep_wait hi (h.imp_right decide_eq_false)
  case moreWait => exact feedRowStep_wait hi (h.imp_right fun hlast => decide_eq_false hlast.not_lt)
  case check1Match => exact feedRowStep_ite hi (and_congr_right' beq_iff_eq)
  case check1Mismatch => exact feedRowStep_ite hi (and_congr_right' bne_iff)
  case check2Match =>
    have hlen := FramerOk.f_length_le hok hfs
    have hrow : s.feedRow b = .feedWaitChecksum2Match b := by simp only [State.feedRow, hfs, if_pos hb]
    exact ⟨_, exec_dispatch hi (framedPacket_wf hlen),
      (exec_of_feedRow_eq hi hok hrow).trans (feedByte_waitChecksum2_match hfs hb hlen)⟩
  case check2Wait => exact feedRowStep_wait hi (h.imp_right beq_false_of_ne)
  case check2Mismatch => exact feedRowStep_ite hi (and_congr_right' bne_iff)

/-- Settles O30: the poll feeds its bytes to the state `GET_AVAILABLE(POLL_MAX)` leaves, which keeps the framer's invariant
and the framing task idle. -/
theorem pollFeedsWhatItReads : Obligations.PollFeedsWhatItReads := by
  intro s hi hok
  have hidle : s.polled.FramerIdle := by rw [polled_eq]; exact hi
  have hpok : s.polled.FramerOk := by rw [polled_eq]; exact hok
  have hret : s.polled.ret = s.ret ++ [(s.prm.framingTask, .available (s.availableBytes s.prm.pollMax))] := by
    rw [polled_eq]
  obtain ⟨s', h, -⟩ := feedBytes_completes (s.availableBytes s.prm.pollMax) hpok
  exact ⟨s.polled, s', exec_getAvailable_idle hi rfl, (framerStep_run hi).trans h, _, hret, (execAll_feed _ hidle).trans h⟩

end Sys2Proof
end

section
/-! SUPPORT. A whole frame taken in by the framer (43_framer.md rule R90, 44_serializer_dispatch.md rule R95): its start
bytes, type and length, then the payload by induction, leave the packet in the framer's registers with the sums of rule R43;
the two checksum bytes decide the rest. -/

namespace Sys2Proof.Machine

variable {s s' : State} {type length : Byte} {data bs : List Byte} {p : Packet} {f : Frame}

/-- The first byte's transition, then the run of the rest. -/
theorem feedBytes_cons {b : Byte} (h : feedByte b s = .next s') : feedBytes (b :: bs) s = feedBytes bs s' := by
  rw [feedBytes, h, andThen_next_left]

theorem feedBytes_singleton (b : Byte) : feedBytes [b] s = feedByte b s := by
  rw [feedBytes]
  cases feedByte b s <;> rfl

/-! ### Start bytes, type and length -/

/-- `s` once the framer has taken the start bytes and the type (rules R81 to R83). -/
def State.typeTaken (s : State) (type : Byte) : State :=
  { s with f_type := type, f_ck0 := type, f_ck1 := type, fs := .waitLength }

theorem feedBytes_type (hfs : s.fs = .waitStart1) :
    feedBytes (startByte1 :: startByte2 :: type :: bs) s = feedBytes bs (s.typeTaken type) := by
  rw [feedBytes_cons (feedByte_waitStart1 hfs), if_pos rfl, feedBytes_cons (feedByte_waitStart2 rfl), if_pos rfl,
    feedBytes_cons (feedByte_waitType rfl)]
  rfl

/-- `s` once the framer has taken the start bytes, the type and an accepted length (rules R81 to R84). -/
def State.headerTaken (s : State) (type length : Byte) : State := { s with
  f_type := type
  f_length := length
  f_ck0 := type + length
  f_ck1 := type + (type + length)
  f_idx := 0
  fs := if 0 < length.toNat then .waitData else .waitChecksum1 }

theorem feedBytes_header (hfs : s.fs = .waitStart1) (hle : length ≤ s.prm.mtu) :
    feedBytes (startByte1 :: startByte2 :: type :: length :: bs) s = feedBytes bs (s.headerTaken type length) := by
  have hlength : feedByte length (s.typeTaken type) = .next (s.headerTaken type length) :=
    feedByte_waitLength_accepted rfl hle
  rw [feedBytes_type hfs, feedBytes_cons hlength]

/-! ### The payload -/

/-- `s` once the framer has taken the rest `data` of the payload: stored from `f_idx` on, and folded (rule R85). -/
def State.payloadTaken (s : State) (data : List Byte) : State := { s with
  f_data := s.f_data.take s.f_idx ++ data ++ s.f_data.drop (s.f_idx + data.length)
  f_ck0 := (data.foldl foldCk (s.f_ck0, s.f_ck1)).1
  f_ck1 := (data.foldl foldCk (s.f_ck0, s.f_ck1)).2
  f_idx := s.f_idx + data.length
  fs := .waitChecksum1 }

theorem payloadTaken_nil (hfs : s.fs = .waitChecksum1) : s.payloadTaken [] = s := by
  simp [State.payloadTaken, ← hfs]

theorem payloadTaken_payloadByte {b : Byte} {x : FramerState} (hidx : s.f_idx < s.f_data.length) :
    (s.payloadByte b x).payloadTaken data = s.payloadTaken (b :: data) := by
  have hstored : (s.f_data.set s.f_idx b).take (s.f_idx + 1) = s.f_data.take s.f_idx ++ [b] := by
    rw [List.take_add_one, List.take_set_of_le (Nat.le_refl _), List.getElem?_set_self hidx]
    rfl
  have hrest : (s.f_data.set s.f_idx b).drop (s.f_idx + 1 + data.length) = s.f_data.drop (s.f_idx + (data.length + 1)) := by
    rw [List.drop_set_of_lt (by omega), Nat.add_assoc, Nat.add_comm 1]
  simp only [State.payloadTaken, State.payloadByte, hstored, hrest]
  simp [foldCk, Nat.add_assoc, Nat.add_comm 1]

/-- The payload is taken byte by byte up to `f_length`; an empty rest finds the framer at the checksum bytes already. -/
theorem feedBytes_payload (hfs : s.fs = if s.f_idx < s.f_length.toNat then .waitData else .waitChecksum1)
    (hlen : s.f_idx + data.length = s.f_length.toNat) (hle : s.f_length.toNat ≤ s.f_data.length) :
    feedBytes (data ++ bs) s = feedBytes bs (s.payloadTaken data) := by
  induction data generalizing s with
  | nil => rw [payloadTaken_nil (hfs.trans (if_neg (Nat.not_lt_of_le hlen.ge))), List.nil_append]
  | cons b data ih =>
    rw [List.length_cons] at hlen
    have hlt : s.f_idx < s.f_length.toNat := by omega
    have hidx : s.f_idx < s.f_data.length := hlt.trans_le hle
    rw [List.cons_append, feedBytes_cons (feedByte_waitData (hfs.trans (if_pos hlt)) hidx),
      ← payloadTaken_payloadByte hidx]
    refine ih ?state ((Nat.succ_add_eq_add_succ ..).trans hlen) (hle.trans_eq List.length_set.symm)
    case state =>
      by_cases hlast : s.f_idx + 1 = s.f_length.toNat
      · simp [State.payloadByte, hlast]
      · simp [State.payloadByte, hlast, Nat.lt_of_le_of_ne hlt hlast]

/-! ### The frame -/

/-- `s` with the packet in the framer's registers, its checksum computed and the checksum bytes still to come. -/
def State.received (s : State) (p : Packet) : State := { s with
  fs := .waitChecksum1
  f_type := p.type
  f_length := p.length
  f_data := p.data ++ s.f_data.drop p.length.toNat
  f_idx := p.length.toNat
  f_ck0 := p.frame.cksum0
  f_ck1 := p.frame.cksum1 }

theorem payloadTaken_headerTaken (hp : p.data.length = p.length.toNat) :
    (s.headerTaken p.type p.length).payloadTaken p.data = s.received p := by
  simp [State.payloadTaken, State.headerTaken, State.received, Packet.frame, checksum, foldCk, hp]

/-- A frame of a length within `MTU`, up to its last byte: the first checksum byte is compared with the computed sum. -/
theorem feedBytes_bytes (hok : s.FramerOk) (hfs : s.fs = .waitStart1) (hf : f.wf = true) (hle : f.length ≤ s.prm.mtu) :
    feedBytes f.bytes s = feedByte f.cksum1
      ((s.received f.packet).goto (if f.cksum0 = f.packet.frame.cksum0 then .waitChecksum2 else .waitStart1)) := by
  have hlen : f.data.length = f.length.toNat := eq_of_beq hf
  have harr : f.length.toNat ≤ s.f_data.length := hok.1 ▸ hle
  have hreceived : (s.headerTaken f.type f.length).payloadTaken f.data = s.received f.packet :=
    payloadTaken_headerTaken (p := f.packet) hlen
  rw [Frame.bytes, feedBytes_header hfs hle, feedBytes_payload rfl ((Nat.zero_add _).trans hlen) harr, hreceived,
    feedBytes_cons (feedByte_waitChecksum1 rfl), feedBytes_singleton]
  rfl

theorem frame_packet (p : Packet) : p.frame.packet = p := rfl

theorem received_f_length_le (hp : p.wf = true) : (s.received p).f_length.toNat ≤ (s.received p).f_data.length := by
  have hlen : p.data.length = p.length.toNat := eq_of_beq hp
  simp [State.received, ← hlen]

theorem framedPacket_received (hp : p.wf = true) : (s.received p).framedPacket = p := by
  have hlen : p.data.length = p.length.toNat := eq_of_beq hp
  simp [State.framedPacket, State.received, ← hlen]

/-- A frame whose two checksum bytes are the computed ones (rule R87's match). -/
theorem feedBytes_frame_bytes (hok : s.FramerOk) (hfs : s.fs = .waitStart1) (hp : p.wf = true) (hle : p.length ≤ s.prm.mtu) :
    feedBytes p.frame.bytes s = .next ((((s.received p).goto .waitChecksum2).dispatched p).goto .waitStart1) := by
  have hmatch : feedByte p.frame.cksum1 ((s.received p).goto .waitChecksum2) =
      .next ((((s.received p).goto .waitChecksum2).dispatched (s.received p).framedPacket).goto .waitStart1) :=
    feedByte_waitChecksum2_match rfl rfl (received_f_length_le hp)
  rw [framedPacket_received hp] at hmatch
  rw [feedBytes_bytes (f := p.frame) hok hfs hp hle, frame_packet, if_pos rfl]
  exact hmatch

end Sys2Proof.Machine

namespace Sys2Proof

open Machine

/-- Settles O32: the frame leaves its packet and the packet's checksum in the framer's registers, so both checksum bytes
match and the packet dispatched is the one framed; `DISPATCH` does not touch those registers. -/
theorem serializedFrameIsDispatchedOnce : Obligations.SerializedFrameIsDispatchedOnce := by
  intro s p hi hok hfs hp hle
  refine ⟨_, _, (framerStep_run hi).trans (feedBytes_frame_bytes hok hfs hp hle), exec_dispatch hi hp, ?_⟩
  rw [dispatched_eq, dispatched_eq]
  rfl

/-- Settles O33: a frame within `MTU` leaves its checksum in the framer's registers, so the corrupted byte is the one that
does not match; a length above `MTU` is rejected by the transition that takes it. -/
theorem corruptedFramesDispatchNothing : Obligations.CorruptedFramesDispatchNothing := by
  intro s f hi hok hfs
  refine ⟨fun hf hle h0 h1 => ?second, fun hf hle h0 => ?first, fun hgt => ?oversize⟩
  case second =>
    refine ⟨((s.received f.packet).goto .waitChecksum2).goto .waitStart1, (framerStep_run hi).trans ?_, rfl, rfl, rfl⟩
    rw [feedBytes_bytes hok hfs hf hle, if_pos h0]
    exact feedByte_waitChecksum2_mismatch rfl h1
  case first =>
    refine ⟨((s.received f.packet).goto .waitStart1).goto (if f.cksum1 = startByte1 then .waitStart2 else .waitStart1),
      (framerStep_run hi).trans ?_, rfl, rfl, rfl⟩
    rw [feedBytes_bytes hok hfs hf hle, if_neg h0]
    exact feedByte_waitStart1 rfl
  case oversize =>
    refine ⟨(s.typeTaken f.type).lengthRejected f.length, (execAll_feed [0xBC, 0xCF, f.type, f.length] hi).trans ?_, rfl,
      rfl, rfl⟩
    exact (feedBytes_type hfs).trans (feedBytes_cons (feedByte_waitLength_oversize rfl hgt))

end Sys2Proof
end

section
/-! SUPPORT. The Serializer/Sender and the Dispatch Table branch by branch (44_serializer_dispatch.md rules R91 to R93), the
frame as memory holds it once it is built, and that it stands there until its sender returns. -/

namespace Sys2Proof.Machine

variable {i : Instr} {s s' : State} {t : Nat} {p : Packet} {ts : TaskState} {P : Params} {m : Memory}

/-! ### The dispatch table -/

theorem dispatched_handled {h : Handler} (hh : handlerOf s.prm (groupTag s.prm p.type) = some h) :
    s.dispatched p = { s with dispatch_log := s.dispatch_log ++ [(h, p)] } := by
  rw [State.dispatched, hh]

theorem dispatched_unknown (hh : handlerOf s.prm (groupTag s.prm p.type) = none) :
    s.dispatched p = { s with diag_log := s.diag_log ++ [.unknownGroup p] } := by
  rw [State.dispatched, hh]

/-! ### `SEND_PACKET` and `SERIALIZE`, phase by phase -/

theorem acquireSendMutex_free (h : s.send_mutex = .free) : s.acquireSendMutex t = some { s with send_mutex := .held t } :=
  if_pos h

/-- Phase V of a Packet value: the length check, then the ready check (rule R91). -/
theorem exec_sendPacket_idle (h : s.TaskIs t .idle) (hp : p.wf = true) :
    exec (.sendPacket t p) s =
      if s.prm.mtu < p.length then .next (s.raiseFault (.assertMtu p.length))
      else if !s.ready && s.prm.sendBeforeInit == .fault then .next (s.raiseFault .sendNotReady)
      else .next (s.setTask t (.sendPacket p .m)) :=
  (taskStep_run h).trans (if_neg (by simp [hp]))

theorem exec_sendPacket_phase {phase : SendPhase} (h : s.TaskIs t (.sendPacket p phase)) :
    exec (.sendPacket t p) s = sendPacketPhase t p phase s :=
  (taskStep_run h).trans (if_pos rfl)

/-- The frame build is the phase S of the holder of `send_mutex` (log entry 12). -/
theorem exec_serialize (hm : s.send_mutex = .held t) (h : s.TaskIs t (.sendPacket p .s)) :
    exec (.serialize p) s = .next (sendPacketBuild t p s) := by
  rw [exec, execSerialize, hm]
  exact (taskStep_run h).trans (if_pos rfl)

/-! ### The frame in `txf` -/

theorem frame_bytes_length (hp : p.wf = true) : p.frame.bytes.length = p.length.toNat + 6 := by
  have hlen : p.frame.data.length = p.length.toNat := eq_of_beq hp
  rw [Frame.bytes_length, hlen]

/-- The frame of a Packet within `MTU` ends inside the address space (rule R4). -/
theorem frame_fits (hP : P.Valid) (hle : p.length ≤ P.mtu) : P.txfBase.toNat + (p.length.toNat + 6) ≤ 2 ^ 32 := by
  obtain ⟨-, -, -, hfit, -⟩ := hP
  have hle : p.length.toNat ≤ P.mtu.toNat := hle
  omega

/-- The bytes of the frame build read back as the frame. -/
theorem slice_frame_written (hm : m.Wf) (hP : P.Valid) (hp : p.wf = true) (hle : p.length ≤ P.mtu) :
    (m.writeBytes P.txfBase p.frame.bytes).slice P.txfBase (p.length.toNat + 6) = p.frame.bytes := by
  have hfit := frame_fits hP hle
  rw [← frame_bytes_length hp] at hfit ⊢
  exact Memory.slice_writeBytes hm _ _ hfit

/-- The frame build writes the frame's bytes only, not the rest of `txf` either. -/
theorem read_outside_written_frame (hm : m.Wf) (hP : P.Valid) (hp : p.wf = true) (hle : p.length ≤ P.mtu) {a : Addr}
    (ha : a.toNat < P.txfBase.toNat ∨ P.txfBase.toNat + p.length.toNat + 6 ≤ a.toNat) :
    (m.writeBytes P.txfBase p.frame.bytes).read a = m.read a := by
  have hfit := frame_fits hP hle
  have hlen := frame_bytes_length hp
  rw [Memory.read_writeBytes hm _ _ _ (by omega), if_neg (by omega)]

/-- A write outside `txf` leaves a frame in it as it is. -/
theorem slice_write_outside_txf {a : Addr} (hm : m.Wf) (hP : P.Valid) (hle : p.length ≤ P.mtu)
    (ha : inFrameBuffer P a = false) (v : Byte) :
    (m.write a v).slice P.txfBase (p.length.toNat + 6) = m.slice P.txfBase (p.length.toNat + 6) := by
  refine Memory.slice_congr fun k hk => ?_
  have hfit := frame_fits hP hle
  have hle : p.length.toNat ≤ P.mtu.toNat := hle
  have hin : inFrameBuffer P (P.txfBase + BitVec.ofNat 32 k) = true := by
    have haddr : (P.txfBase + BitVec.ofNat 32 k).toNat = P.txfBase.toNat + k := by
      simp only [BitVec.toNat_add, BitVec.toNat_ofNat]
      omega
    rw [inFrameBuffer_iff, haddr]
    omega
  rw [Memory.read_write hm, if_neg]
  rintro rfl
  simp [hin] at ha

/-! ### The task whose frame is built -/

/-- A task whose frame is built is in `SEND_PACKET`, past phase S. -/
theorem TaskState.exists_phase_of_built (h : p ∈ ts.built) :
    ∃ phase, ts = .sendPacket p phase ∧ phase ≠ .m ∧ phase ≠ .s := by
  cases ts with
  | sendPacket q phase =>
    simp only [TaskState.built, Option.mem_def, Option.ite_none_left_eq_some, Option.some.injEq, not_or] at h
    obtain ⟨hphase, rfl⟩ := h
    exact ⟨phase, rfl, hphase⟩
  | idle | sendLowRate | sendDma | recvTimeout => cases h

theorem TaskState.holdsSendMutex_of_built (h : p ∈ ts.built) : ts.holdsSendMutex = true := by
  obtain ⟨phase, rfl, hm, -⟩ := TaskState.exists_phase_of_built h
  exact bne_iff_ne.mpr hm

theorem TaskState.length_le_of_built (h : p ∈ ts.built) (hloc : ts.localsOk P = true) : p.length ≤ P.mtu := by
  obtain ⟨phase, rfl, -⟩ := TaskState.exists_phase_of_built h
  simp only [TaskState.localsOk, Bool.and_eq_true, decide_eq_true_eq] at hloc
  exact hloc.2

/-- What an operation does to the built frames: nothing, or a task moves that keeps its frame or gives it up, or a task in
phase S builds its own. -/
inductive BuildMove (s s' : State) : Prop where
  | keep (htask : s'.task = s.task) (hmem : s'.mem = s.mem)
  | move {t : Nat} {old new : TaskState} (ht : s.task[t]? = some old) (htask : s'.task = s.task.set t new)
      (hbuilt : new.built = none ∨ new.built = old.built) (hmem : s'.mem = s.mem)
  | build {t : Nat} {p : Packet} {new : TaskState} (ht : s.task[t]? = some (.sendPacket p .s))
      (htask : s'.task = s.task.set t new) (hbuilt : new.built = some p)
      (hmem : s'.mem = s.mem.writeBytes s.prm.txfBase p.frame.bytes)

theorem Effect.buildMove (h : Effect s i s') : BuildMove s s' := by
  have hr := h.receiverFrame
  have hc := h.flowControlFrame
  cases h with
  | packetBuild h | serialize h => exact .build h.2 rfl (by split <;> rfl) rfl
  | lowRateByte h => exact .move h.2 rfl (.inl (by split <;> rfl)) rfl
  | lowRateEntry h | dmaEntry h | dmaLock h | dmaTake h | dmaReturn h | packetEntry h | packetMutex h | packetReturn h
  | recvEntry h | recvTake h | expire h => exact .move h.2 rfl (.inl rfl) rfl
  | packetDma0 h => exact .move h.2 rfl (.inr (by split <;> rfl)) rfl
  | packetLock h | packetTake h | packetUnlock h => exact .move h.2 rfl (.inr rfl) rfl
  | dmaProgram h hp | packetProgram h hp =>
    obtain ⟨-, -, rfl⟩ := programTx_some hp
    exact .move h.2 rfl (.inr rfl) rfl
  | errorFlag | errorIrq | errorBoth | handOff | available | dispatch | poll => rw [(hr rfl).frame]; exact .keep rfl rfl
  | feed hf => rw [(hr (Instr.isReceiver_of_isFramer hf)).frame]; exact .keep rfl rfl
  | fcIsr | pause | resume => rw [hc rfl]; exact .keep rfl rfl
  | _ => exact .keep rfl rfl

/-- The builder holds `send_mutex`, so the frame it builds is the only one. -/
theorem FramesBuilt.build {new : TaskState} (ht : s.TasksOk) (hl : s.LocksOk) (hwf : s.mem.Wf)
    (hbuilder : s.task[t]? = some (.sendPacket p .s)) (hprm : s'.prm = s.prm) (htask : s'.task = s.task.set t new)
    (hbuilt : new.built = some p) (hmem : s'.mem = s.mem.writeBytes s.prm.txfBase p.frame.bytes) : s'.FramesBuilt := by
  intro x hx q hq
  rw [htask] at hx
  rcases mem_set_cases hx with rfl | ⟨u, hut, hu⟩
  · obtain rfl : p = q := Option.some.inj (hbuilt.symm.trans hq)
    obtain ⟨hP, -, hloc⟩ := ht
    have hpacket := hloc _ (List.mem_of_getElem? hbuilder)
    simp only [TaskState.localsOk, Bool.and_eq_true, decide_eq_true_eq] at hpacket
    rw [hprm, hmem]
    exact slice_frame_written hwf hP hpacket.1 hpacket.2
  · exact absurd (LockMatches.holder_unique hl.2 hbuilder rfl hu (TaskState.holdsSendMutex_of_built hq)) hut

theorem Effect.framesBuilt (h : Effect s i s') (ht : s.TasksOk) (hl : s.LocksOk) (hwf : s.mem.Wf) (hs : s.FramesBuilt) :
    s'.FramesBuilt := by
  obtain ⟨⟨hprm, -⟩, -⟩ := h.config
  cases h.buildMove with
  | keep htask hmem =>
    rw [State.FramesBuilt, htask, hmem, hprm]
    exact hs
  | @move t old new hold htask hbuilt hmem =>
    rw [State.FramesBuilt, htask, hmem, hprm]
    intro x hx q hq
    rcases List.mem_or_eq_of_mem_set hx with hx | rfl
    · exact hs x hx q hq
    · rcases hbuilt with hnone | hsame
      · simp [hnone] at hq
      · exact hs old (List.mem_of_getElem? hold) q (hsame ▸ hq)
  | build hbuilder htask hbuilt hmem => exact FramesBuilt.build ht hl hwf hbuilder hprm htask hbuilt hmem

/-- A write of the host outside `txf` leaves every built frame as it is. -/
theorem FramesBuilt.hostWrite {a : Addr} (hs : s.FramesBuilt) (ht : s.TasksOk) (hwf : s.mem.Wf)
    (ha : inFrameBuffer s.prm a = false) (v : Byte) : { s with mem := s.mem.write a v }.FramesBuilt := by
  intro x hx q hq
  obtain ⟨hP, -, hloc⟩ := ht
  exact (slice_write_outside_txf hwf hP (TaskState.length_le_of_built hq (hloc x hx)) ha v).trans (hs x hx q hq)

end Sys2Proof.Machine

namespace Sys2Proof

open Machine

/-- Settles O36: the step is the frame build, whose bytes end inside the address space and read back as the frame. -/
theorem serializeWritesTheFrame : Obligations.SerializeWritesTheFrame := by
  intro s t p hP hwf hp hle hmutex ht
  exact ⟨sendPacketBuild t p s, exec_serialize hmutex ht, rfl, slice_frame_written hwf hP hp hle,
    fun a ha => read_outside_written_frame hwf hP hp hle ha⟩

/-- Settles O58: an operation leaves memory and the built frames alone, or is the build of the one holder of `send_mutex`;
the host does not write `txf`. -/
theorem builtFrameStaysUntilSent : Obligations.BuiltFrameStaysUntilSent := by
  intro s s' hinv hs hstep
  obtain ⟨ht, -, hl, -, -, -, -, -, hwf⟩ := hinv
  rcases step_cases hstep with ⟨-, rfl | ⟨e, rest, -, rfl⟩⟩ | ⟨i, e, rest, -, -, h⟩ | ⟨a, v, rest, -, -, -, ha, -, rfl⟩
  · exact hs
  · exact hs
  · rcases exec_effect h with rfl | h
    · exact hs
    · exact h.framesBuilt ht hl hwf hs
  · exact FramesBuilt.hostWrite (s := { s with sched := rest }) hs ht hwf ha v

/-- Settles O35: phase V by its two checks, then each phase by whether it is enabled. -/
theorem sendPacketRunsItsPhases : Obligations.SendPacketRunsItsPhases := by
  intro s t p hp
  refine ⟨?tooLong, ?notReady, ?entry, ?mutex, ?mutexHeld, ?build, ?dma0, ?lock, ?lockHeld, ?program, ?busy, ?take,
    ?notDone, ?unlock, ?ret⟩
  case tooLong =>
    intro h hgt
    rw [exec_sendPacket_idle h hp, if_pos hgt]
    rfl
  case notReady =>
    intro h hle hr hinit
    rw [exec_sendPacket_idle h hp, if_neg (BitVec.not_lt.mpr hle), if_pos (by simp [hr, hinit])]
    rfl
  case entry =>
    intro h hle hpass
    rw [exec_sendPacket_idle h hp, if_neg (BitVec.not_lt.mpr hle), if_neg (by rcases hpass with h | h <;> simp [h])]
    rfl
  case mutex =>
    intro h hl
    exact (exec_sendPacket_phase h).trans (blockUntil_some (acquireSendMutex_free hl))
  case mutexHeld =>
    intro h hl
    exact (exec_sendPacket_phase h).trans (blockUntil_none (acquireSendMutex_held hl))
  case build =>
    intro h hl
    exact ⟨_, exec_sendPacket_phase h, exec_serialize hl h⟩
  case dma0 =>
    intro h
    exact exec_sendPacket_phase h
  case lock =>
    intro h hl
    exact (exec_sendPacket_phase h).trans (blockUntil_some (acquireTxLock_free hl))
  case lockHeld =>
    intro h hl
    exact (exec_sendPacket_phase h).trans (blockUntil_none (acquireTxLock_held hl))
  case program =>
    intro h hen hpa
    exact (exec_sendPacket_phase h).trans (blockUntil_some (programTx_ready hen hpa))
  case busy =>
    intro h hb
    exact (exec_sendPacket_phase h).trans (blockUntil_none (programTx_busy hb))
  case take =>
    intro h hd
    exact (exec_sendPacket_phase h).trans (blockUntil_some (takeTxDone_given hd))
  case notDone =>
    intro h hd
    exact (exec_sendPacket_phase h).trans (blockUntil_none (takeTxDone_not_given hd))
  case unlock =>
    intro h
    exact exec_sendPacket_phase h
  case ret =>
    intro h
    exact exec_sendPacket_phase h

/-- Settles O37: the group tag is looked up in the order of the rule. -/
theorem dispatchRoutesByGroup : Obligations.DispatchRoutesByGroup := by
  intro s p g hi hp hg
  have hlookup : handlerOf s.prm (groupTag s.prm p.type) = handlerOf s.prm g := by rw [hg, groupTag]
  rw [exec_dispatch hi hp]
  refine ⟨fun hradio => ?radio, fun hradio hpm => ?pm, fun hradio hpm how => ?ow, fun hradio hpm how => ?unknown⟩
  case radio => rw [dispatched_handled (hlookup.trans (if_pos hradio))]
  case pm => rw [dispatched_handled (hlookup.trans ((if_neg hradio).trans (if_pos hpm)))]
  case ow => rw [dispatched_handled (hlookup.trans ((if_neg hradio).trans ((if_neg hpm).trans (if_pos how))))]
  case unknown => rw [dispatched_unknown (hlookup.trans ((if_neg hradio).trans ((if_neg hpm).trans (if_neg how))))]

end Sys2Proof
end

section
/-! SUPPORT. Faults and pending flags (60_exceptions.md rules R101 to R105): a raised fault stops every operation, what
raises one, and which operation clears which flag. -/

namespace Sys2Proof.Machine

variable {i : Instr} {s s' : State} {b : Byte}

/-! ### Once a fault is raised -/

/-- Every operation stands under a guard that lets nothing through once a fault is raised. -/
theorem exec_faulted (h : s.fault ≠ none) : exec i s = .next s := by
  cases i with
  | init | sendLowRate | sendDma | recvTimeout | getAvailable | sendPacket | timeoutExpire => exact taskStep_faulted h
  | rxneIsr | rxCompleteIsr | txTcIsr | fcIsr => exact irqStep_wait (.inl h)
  | pauseTx | resumeTx | txBeat | rxByte | rxError | rxIdle | fcEdge | txEmpty => exact liveStep_faulted h
  | framerPoll | feed | dispatch | frame | feedWaitStart1Sync | feedWaitStart1Other | feedWaitStart2Sync
  | feedWaitStart2Other | feedWaitTypeAny | feedWaitLengthOversize | feedWaitLengthZero | feedWaitLengthData
  | feedWaitDataMore | feedWaitDataLast | feedWaitChecksum1Match | feedWaitChecksum1Mismatch | feedWaitChecksum2Match
  | feedWaitChecksum2Mismatch => exact framerStep_faulted h
  | serialize p =>
    rw [exec, execSerialize]
    split
    · rfl
    · exact taskStep_faulted h

/-! ### What raises a fault -/

/-- The operations that raise a fault, each with its condition and the value it records (rule R102). -/
inductive Raises (s : State) : Instr → FaultCode → Prop where
  | assertMtu {t : Nat} {p : Packet} (hm : s.prm.mtu < p.length) : Raises s (.sendPacket t p) (.assertMtu p.length)
  | sendNotReady {t : Nat} {p : Packet} (hr : s.ready = false) (hm : p.length ≤ s.prm.mtu) :
      Raises s (.sendPacket t p) .sendNotReady
  | rxDmaOverrun {i : Instr} {b : Byte} (hi : i.dmaOffer s.prm = [b]) (hr : s.ready = true) (he : s.rx_en = false) :
      Raises s i (.rxDmaOverrun b)
  | rxStageOverflow {cause : RxCause} (ho : s.prm.stageCap < s.stage.length + s.rxValid) :
      Raises s (.rxCompleteIsr cause) (.rxStageOverflow s.stage.length s.rxValid)

/-- An operation leaves the fault register alone, or raises a fault and does nothing else. -/
theorem Effect.fault (h : Effect s i s') : s'.fault = s.fault ∨ ∃ c, Raises s i c ∧ s' = s.raiseFault c := by
  cases h with
  | packetTooLong _ hm => exact .inr ⟨_, .assertMtu hm, rfl⟩
  | packetNotReady _ hm hr => exact .inr ⟨_, .sendNotReady hr hm, rfl⟩
  | offerOverrun _ hr hi he => exact .inr ⟨_, .rxDmaOverrun hi hr he, rfl⟩
  | stageOverflow _ ho => exact .inr ⟨_, .rxStageOverflow ho, rfl⟩
  | errorFlag | errorIrq | errorBoth => rw [setLineError_eq]; exact .inl rfl
  | handOff => rw [clearCause_eq]; exact .inl rfl
  | available => rw [drained_eq]; exact .inl rfl
  | dispatch => rw [dispatched_eq]; exact .inl rfl
  | feed _ _ h1 => rw [(feedBytes_frame h1).frame]; exact .inl rfl
  | poll _ h1 => rw [(feedBytes_frame h1).frame, polled_eq]; exact .inl rfl
  | dmaProgram _ hp | packetProgram _ hp => obtain ⟨-, -, rfl⟩ := programTx_some hp; exact .inl rfl
  | pause => rw [paused_eq]; exact .inl rfl
  | resume => rw [resumed_eq]; exact .inl rfl
  | fcIsr =>
    split
    · rw [paused_eq]; exact .inl rfl
    · rw [resumed_eq]; exact .inl rfl
  | _ => exact .inl rfl

/-! ### Pending flags -/

/-- The flags of the pending conditions, with the enable of the transmit completion (rule R104). -/
inductive PendingFlag where
  | rxne
  | pe
  | fe
  | ne
  | ore
  | idle
  | rxTcif
  | txTcif
  | txTcie
  | fcPend

/-- The flag in the state, under the field of its name. -/
def State.flag (s : State) (f : PendingFlag) : Bool :=
  match f with
  | .rxne => s.rxne
  | .pe => s.pe
  | .fe => s.fe
  | .ne => s.ne
  | .ore => s.ore
  | .idle => s.idle
  | .rxTcif => s.rx_tcif
  | .txTcif => s.tx_tcif
  | .txTcie => s.tx_tcie
  | .fcPend => s.fc_pend

/-- The operation clears the flag: the service step of its source (rule R105), and `INIT`, which arms the receive stream
afresh. -/
def Clears (i : Instr) (f : PendingFlag) : Prop :=
  match f with
  | .rxne | .pe | .fe | .ne | .ore => i = .rxneIsr
  | .idle => i = .rxCompleteIsr .idle
  | .rxTcif => i = .rxCompleteIsr .tc ∨ ∃ t, i = .init t
  | .txTcif | .txTcie => i = .txTcIsr
  | .fcPend => i = .fcIsr

section

variable {f : PendingFlag}

theorem flag_latchIf (c : Bool) (hs : s.flag f = true) : (s.latchIf c b).flag f = true := by
  cases f with
  | rxne | ore => exact Bool.or_eq_true_iff.mpr (.inl hs)
  | _ => exact hs

theorem flag_stored (hs : s.flag f = true) : (s.stored b).flag f = true := by
  cases f with
  | rxTcif => exact ite_eq_left_iff.mpr fun _ => hs
  | _ => exact hs

theorem flag_setLineError (kind : LineError) (hs : s.flag f = true) : (s.setLineError kind).flag f = true := by
  rw [setLineError_eq]
  cases f with
  | pe | fe | ne => exact Bool.or_eq_true_iff.mpr (.inl hs)
  | _ => exact hs

theorem flag_beat (hs : s.flag f = true) : s.beat.flag f = true := by
  cases f with
  | txTcif => exact ite_eq_left_iff.mpr fun _ => hs
  | _ => exact hs

theorem flag_programTx {s1 : State} {addr : Addr} {size : Count} (hp : s.programTx addr size = some s1)
    (hs : s.flag f = true) : s1.flag f = true := by
  obtain ⟨-, -, rfl⟩ := programTx_some hp
  cases f with
  | txTcie => rfl
  | _ => exact hs

theorem flag_paused (hs : s.flag f = true) : s.paused.flag f = true := by
  rw [paused_eq]
  exact hs

theorem flag_resumed (hs : s.flag f = true) : s.resumed.flag f = true := by
  rw [resumed_eq]
  cases f with
  | txTcie => exact Bool.or_eq_true_iff.mpr (.inl hs)
  | _ => exact hs

/-- A flag that the operation does not clear stays set. -/
theorem Effect.flag (h : Effect s i s') (hc : ¬ Clears i f) (hs : s.flag f = true) : s'.flag f = true := by
  cases h with
  | init =>
    cases f with
    | rxTcif => exact absurd (.inr ⟨_, rfl⟩) hc
    | _ => exact hs
  | rxne =>
    cases f with
    | rxne | pe | fe | ne | ore => exact absurd rfl hc
    | _ => exact hs
  | @handOff c =>
    cases c with
    | tc =>
      cases f with
      | rxTcif => exact absurd (.inl rfl) hc
      | _ => exact hs
    | idle =>
      cases f with
      | idle => exact absurd rfl hc
      | _ => exact hs
  | txTc =>
    cases f with
    | txTcif | txTcie => exact absurd rfl hc
    | _ => exact hs
  | fcIsr =>
    have hack : { s with fc_pend := false }.flag f = true := by
      cases f with
      | fcPend => exact absurd rfl hc
      | _ => exact hs
    split
    · exact flag_paused hack
    · exact flag_resumed hack
  | pause => exact flag_paused hs
  | resume => exact flag_resumed hs
  | dmaProgram _ hp | packetProgram _ hp => exact (flag_programTx hp hs :)
  | beat => exact flag_beat hs
  | rxIrq => exact flag_latchIf _ hs
  | rxBoth => exact flag_stored (flag_latchIf _ hs)
  | errorFlag => exact flag_setLineError _ hs
  | errorIrq => exact flag_latchIf _ (flag_setLineError _ hs)
  | errorBoth => exact flag_stored (flag_latchIf _ (flag_setLineError _ hs))
  | rxIdle =>
    cases f with
    | idle => rfl
    | _ => exact hs
  | fcEdge =>
    cases f with
    | fcPend => rfl
    | _ => exact hs
  | available => rw [drained_eq]; exact hs
  | dispatch => rw [dispatched_eq]; exact hs
  | feed _ _ h1 => rw [(feedBytes_frame h1).frame]; exact hs
  | poll _ h1 => rw [(feedBytes_frame h1).frame, polled_eq]; exact hs
  | _ => exact hs

end

end Sys2Proof.Machine

namespace Sys2Proof

open Machine

/-- Settles O43: the guard of every operation waits once a fault is raised. -/
theorem faultFreezesTheState : Obligations.FaultFreezesTheState :=
  fun _ _ h => exec_faulted h

/-- Settles O44: of all effects four raise a fault, under the conditions of rule R102, and no other writes the register. -/
theorem raisingAFaultChangesNothingElse : Obligations.RaisingAFaultChangesNothingElse := by
  intro i s s' c hf h hc
  have hne : s'.fault ≠ s.fault := by simp [hf, hc]
  rcases exec_effect h with rfl | h
  · exact absurd rfl hne
  obtain ⟨d, hraises, rfl⟩ := h.fault.resolve_left hne
  obtain rfl : d = c := Option.some.inj hc
  refine ⟨rfl, ?_⟩
  cases hraises with
  | assertMtu hm => exact ⟨_, _, rfl, rfl, hm⟩
  | sendNotReady hr hm => exact ⟨_, _, rfl, hr, hm⟩
  | rxDmaOverrun hi hr he => exact ⟨hi, hr, he⟩
  | rxStageOverflow ho => exact ⟨_, rfl, rfl, rfl, ho⟩

/-- Settles O45: an operation keeps every flag it does not clear, flag by flag. -/
theorem pendingFlagsStayUntilServiced : Obligations.PendingFlagsStayUntilServiced := by
  intro i s s' h
  have stays : ∀ f, ¬ Clears i f → s.flag f = true → s'.flag f = true := by
    intro f hc hs
    rcases exec_effect h with rfl | h
    · exact hs
    · exact h.flag hc hs
  refine ⟨fun hi => ?rxne, stays .idle, fun htc hinit => ?rxTcif, fun hi => ?tx, stays .fcPend⟩
  case rxne => exact ⟨stays .rxne hi, stays .pe hi, stays .fe hi, stays .ne hi, stays .ore hi⟩
  case rxTcif => exact stays .rxTcif (not_or.mpr ⟨htc, not_exists.mpr hinit⟩)
  case tx => exact ⟨stays .txTcif hi, stays .txTcie hi⟩

end Sys2Proof
end

section
/-! SUPPORT. Where an operation of a safe block stops (60_exceptions.md rule R103): under the invariants every operation of
existing tasks completes, but for the refusals of `INIT`, `SEND_DMA` and `GET_AVAILABLE`. -/

namespace Sys2Proof.Machine

variable {i : Instr} {s : State} {t : Nat} {k : Out}

/-! ### Guards -/

/-- The outcome is a next state. -/
def Completes (o : Out) : Prop := ∃ s', o = .next s'

theorem Completes.next (s : State) : Completes (.next s) := ⟨s, rfl⟩

theorem Completes.ite {c : Prop} [Decidable c] {l : Out} (hk : c → Completes k) (hl : ¬ c → Completes l) :
    Completes (if c then k else l) := by
  split
  · exact hk ‹c›
  · exact hl ‹¬ c›

/-- A step of an existing task is not taken, or runs by what the task is doing. -/
theorem taskStep_cases (ht : t < s.task.length) (f : TaskState → Out) :
    taskStep s t f = .next s ∨ ∃ ts, s.TaskIs t ts ∧ taskStep s t f = f ts := by
  by_cases hf : s.fault = none
  · have hts : s.TaskIs t s.task[t] := ⟨hf, List.getElem?_eq_getElem ht⟩
    exact .inr ⟨_, hts, taskStep_run hts⟩
  · exact .inl (taskStep_faulted hf)

theorem Completes.taskStep {f : TaskState → Out} (ht : t < s.task.length) (hk : ∀ ts, s.TaskIs t ts → Completes (f ts)) :
    Completes (taskStep s t f) := by
  rcases taskStep_cases ht f with h | ⟨ts, hts, h⟩
  · exact ⟨s, h⟩
  · rw [h]
    exact hk ts hts

theorem Completes.framerStep (ht : s.prm.framingTask < s.task.length) (hk : Completes k) : Completes (framerStep s k) :=
  .taskStep ht fun ts _ => by
    cases ts with
    | idle => exact hk
    | sendLowRate | sendDma | sendPacket | recvTimeout => exact .next s

theorem Completes.feedRowStep {x : FramerState} {c : Bool} (ht : s.prm.framingTask < s.task.length)
    (hk : s.fs = x → Completes k) : Completes (feedRowStep s x c k) :=
  .framerStep ht (.ite (fun hc => hk hc.1) fun _ => .next s)

theorem Completes.liveStep (hk : Completes k) : Completes (liveStep s k) := .ite (fun _ => .next s) fun _ => hk

theorem Completes.receiverStep (hk : s.ready = true → Completes k) : Completes (receiverStep s k) :=
  .liveStep (.ite hk fun _ => .next s)

theorem Completes.blockUntil (r : Option State) (f : State → State) : Completes (blockUntil s r f) := by
  cases r with
  | none => exact .next s
  | some s1 => exact .next (f s1)

/-! ### Operations of a task -/

theorem exec_init_completes (ht : t < s.task.length) :
    Completes (exec (.init t) s) ∨ s.ready = true ∧ exec (.init t) s = .refused .secondInit := by
  rcases taskStep_cases ht _ with h | ⟨ts, hts, h⟩
  · exact .inl ⟨s, h⟩
  cases ts with
  | idle =>
    rw [exec_init_idle hts]
    by_cases hr : s.ready = true
    · exact .inr ⟨hr, if_pos hr⟩
    · exact .inl ⟨_, if_neg hr⟩
  | sendLowRate | sendDma | sendPacket | recvTimeout => exact .inl ⟨s, h⟩

theorem lowRatePhase_completes {bytes : List Byte} {n : Nat} (hn : n < bytes.length) :
    Completes (lowRatePhase t bytes n s) := by
  rw [lowRatePhase, List.getElem?_eq_getElem hn]
  exact .ite (fun _ => .next _) fun _ => .next s

theorem exec_sendLowRate_completes {bytes : List Byte} (hs : s.TasksOk) (ht : t < s.task.length) :
    Completes (exec (.sendLowRate t bytes) s) := by
  obtain ⟨-, -, hloc⟩ := hs
  refine .taskStep ht fun ts hts => ?_
  cases ts with
  | idle => exact .ite (fun _ => .next _) fun _ => .next s
  | sendLowRate bs n =>
    have hn : n < bs.length := of_decide_eq_true (hloc _ (List.mem_of_getElem? hts.2))
    exact .ite (fun hbs => lowRatePhase_completes (hbs ▸ hn)) fun _ => .next s
  | sendDma | sendPacket | recvTimeout => exact .next s

theorem sendDmaPhase_completes (addr : Addr) (size : Count) (phase : DmaPhase) :
    Completes (sendDmaPhase t addr size phase s) := by
  cases phase with
  | a | c | d => exact .blockUntil _ _
  | e => exact .next _

theorem exec_sendDma_completes {addr : Addr} {size : Count} (ht : t < s.task.length) :
    Completes (exec (.sendDma t addr size) s) ∨
    size = 0 ∧ exec (.sendDma t addr size) s = .refused .emptyTransfer ∨
    2 ^ 32 < addr.toNat + size.toNat ∧ exec (.sendDma t addr size) s = .refused .wrappingTransfer := by
  rcases taskStep_cases ht _ with h | ⟨ts, hts, h⟩
  · exact .inl ⟨s, h⟩
  cases ts with
  | idle =>
    rw [exec_sendDma_idle hts]
    cases hr : s.ready with
    | false => exact .inl (.next _)
    | true =>
      by_cases h0 : size = 0
      · exact .inr (.inl ⟨h0, if_pos h0⟩)
      by_cases hw : rangeWraps addr size = true
      · exact .inr (.inr ⟨rangeWraps_iff.mp hw, (if_neg h0).trans (if_pos hw)⟩)
      · exact .inl ⟨_, (if_neg h0).trans (if_neg hw)⟩
  | sendDma a n phase =>
    by_cases hop : a = addr ∧ n = size
    · obtain ⟨s', h'⟩ := sendDmaPhase_completes (s := s) (t := t) addr size phase
      exact .inl ⟨s', h.trans ((if_pos hop).trans h')⟩
    · exact .inl ⟨s, h.trans (if_neg hop)⟩
  | sendLowRate | sendPacket | recvTimeout => exact .inl ⟨s, h⟩

theorem exec_getAvailable_completes {max : Nat} (ht : t < s.task.length) :
    Completes (exec (.getAvailable t max) s) ∨
    t ≠ s.prm.framingTask ∧ exec (.getAvailable t max) s = .refused (.notFramingTask t) := by
  rcases taskStep_cases ht _ with h | ⟨ts, hts, h⟩
  · exact .inl ⟨s, h⟩
  by_cases hne : t ≠ s.prm.framingTask
  · exact .inr ⟨hne, h.trans (if_pos hne)⟩
  have hread := h.trans (if_neg hne)
  cases ts with
  | idle => exact .inl ⟨_, hread⟩
  | sendLowRate | sendDma | sendPacket | recvTimeout => exact .inl ⟨s, hread⟩

theorem sendPacketPhase_completes (p : Packet) (phase : SendPhase) : Completes (sendPacketPhase t p phase s) := by
  cases phase with
  | m | a | c | d => exact .blockUntil _ _
  | s | dma0 | e | z => exact .next _

theorem exec_sendPacket_completes {p : Packet} (ht : t < s.task.length) (hp : p.wf = true) :
    Completes (exec (.sendPacket t p) s) := by
  refine .taskStep ht fun ts hts => ?_
  cases ts with
  | idle =>
    refine .ite (fun hn => absurd hn (by simp [hp])) fun _ => ?_
    exact .ite (fun _ => .next _) fun _ => .ite (fun _ => .next _) fun _ => .next _
  | sendPacket q phase => exact .ite (fun _ => sendPacketPhase_completes p phase) fun _ => .next s
  | sendLowRate | sendDma | recvTimeout => exact .next s

theorem exec_serialize_completes {p : Packet} (ht : ∀ t, s.send_mutex = .held t → t < s.task.length) :
    Completes (exec (.serialize p) s) := by
  rw [exec, execSerialize]
  split
  · exact .next s
  · rename_i t hl
    exact .taskStep (ht t hl) fun ts _ => .ite (fun _ => .next _) fun _ => .next s

theorem exec_recvTimeout_completes {n : Nat} (ht : t < s.task.length) : Completes (exec (.recvTimeout t n) s) := by
  refine .taskStep ht fun ts _ => ?_
  cases ts with
  | idle => exact .ite (fun _ => .next _) fun _ => .next _
  | recvTimeout => cases s.byteq <;> exact .next _
  | sendLowRate | sendDma | sendPacket => exact .next s

theorem exec_timeoutExpire_completes (ht : t < s.task.length) : Completes (exec (.timeoutExpire t) s) := by
  refine .taskStep ht fun ts _ => ?_
  cases ts with
  | recvTimeout => exact .ite (fun _ => .next _) fun _ => .next s
  | idle | sendLowRate | sendDma | sendPacket => exact .next s

/-! ### Receptions -/

/-- The path updates complete where an enabled stream has room. -/
theorem rxPaths_completes {s0 : State} {b : Byte} {r : RxDraw} (hn : s.rx_en = true → s0.rxValid < s0.rx_buf.length) :
    Completes (rxPaths s s0 b r) := by
  cases hd : dmaSees s.prm.rxRoute r with
  | false => exact ⟨_, rxPaths_unseen hd⟩
  | true =>
    cases he : s.rx_en with
    | false => exact ⟨_, rxPaths_overrun hd he⟩
    | true => exact ⟨_, rxPaths_stored hd he (hn he)⟩

theorem exec_reception_completes (hi : i.isReception = true) (hs : s.ReceiveOk) : Completes (exec i s) := by
  cases i with
  | rxByte b r => exact .receiverStep fun hr => rxPaths_completes (ReceiveOk.rxValid_lt hs hr)
  | rxError kind d r =>
    refine .receiverStep fun hr => ?_
    cases d with
    | none => exact .next _
    | some b =>
      refine rxPaths_completes fun he => ?_
      rw [setLineError_eq]
      exact ReceiveOk.rxValid_lt hs hr he
  | _ => cases hi

/-! ### The framer -/

theorem exec_framer_completes (hi : i.isFramer = true) (ht : s.prm.framingTask < s.task.length) (hs : s.FramerOk) :
    Completes (exec i s) := by
  have fed : ∀ {s0 : State} (bs : List Byte), s0.FramerOk → Completes (feedBytes bs s0) := fun bs h0 =>
    (feedBytes_completes bs h0).imp fun _ h => h.1
  cases i with
  | framerPoll =>
    have hp : s.polled.FramerOk := by rw [polled_eq]; exact hs
    exact .framerStep ht (fed _ hp)
  | feed b => exact .framerStep ht ((feedByte_completes b hs).imp fun _ h => h.1)
  | frame f => exact .framerStep ht (fed _ hs)
  | feedWaitDataMore b | feedWaitDataLast b =>
    refine .feedRowStep ht fun hfs => ?_
    rw [dataTaken_eq (FramerOk.f_idx_lt hs hfs)]
    exact .next _
  | feedWaitChecksum2Match b =>
    refine .feedRowStep ht fun hfs => ?_
    rw [assembled_eq (FramerOk.f_length_le hs hfs)]
    exact .next _
  | feedWaitStart1Sync | feedWaitStart1Other | feedWaitStart2Sync | feedWaitStart2Other | feedWaitTypeAny
  | feedWaitLengthOversize | feedWaitLengthZero | feedWaitLengthData | feedWaitChecksum1Match | feedWaitChecksum1Mismatch
  | feedWaitChecksum2Mismatch => exact .feedRowStep ht fun _ => .next _
  | _ => cases hi

end Sys2Proof.Machine

namespace Sys2Proof

open Machine

/-- Settles O54: the invariants rule out every access outside an array, the premises every missing task and every value
that is no Packet. -/
theorem operationsStopOnlyWhereRefused : Obligations.OperationsStopOnlyWhereRefused := by
  intro i s hinv hwf hcaller
  obtain ⟨htasks, -, -, -, -, hrx, hfr, -, -⟩ := hinv
  have ⟨⟨_, _, hframing, _⟩, hlen, _⟩ := htasks
  rw [← hlen] at hcaller hframing
  by_cases hf : i.isFramer = true
  · exact .inl (exec_framer_completes hf hframing hfr)
  by_cases hirq : i.isIrq = true
  · exact .inl ((exec_service_completes hirq hrx).imp fun _ h => h.1)
  cases i with
  | init t =>
    exact (exec_init_completes (hcaller t rfl)).imp_right fun ⟨hr, h⟩ => .inl ⟨t, rfl, hr, h⟩
  | sendDma t addr size =>
    rcases exec_sendDma_completes (addr := addr) (size := size) (hcaller t rfl) with h | ⟨rfl, h⟩ | ⟨hw, h⟩
    · exact .inl h
    · exact .inr (.inr (.inl ⟨t, addr, rfl, h⟩))
    · exact .inr (.inr (.inr (.inl ⟨t, addr, size, rfl, hw, h⟩)))
  | getAvailable t max =>
    exact (exec_getAvailable_completes (hcaller t rfl)).imp_right fun ⟨hne, h⟩ =>
      .inr (.inr (.inr ⟨t, max, rfl, hne, h⟩))
  | sendLowRate t => exact .inl (exec_sendLowRate_completes htasks (hcaller t rfl))
  | recvTimeout t => exact .inl (exec_recvTimeout_completes (hcaller t rfl))
  | sendPacket t p =>
    obtain ⟨-, hp⟩ := Bool.and_eq_true_iff.mp hwf
    exact .inl (exec_sendPacket_completes (hcaller t rfl) hp)
  | serialize p => exact .inl (exec_serialize_completes fun t hl => hcaller t (by simp only [Instr.caller, hl]))
  | dispatch p => exact .inl (Completes.framerStep hframing (.ite (fun _ => .next _) fun hn => absurd hwf hn))
  | rxByte | rxError => exact .inl (exec_reception_completes rfl hrx)
  | rxIdle => exact .inl (Completes.receiverStep fun _ => .next _)
  | txBeat | fcEdge | txEmpty => exact .inl (Completes.liveStep (.ite (fun _ => .next _) fun _ => .next _))
  | timeoutExpire t => exact .inl (exec_timeoutExpire_completes (hcaller t rfl))
  | rxneIsr | rxCompleteIsr | txTcIsr | fcIsr | pauseTx | resumeTx => exact absurd rfl hirq
  | _ => exact absurd rfl hf

end Sys2Proof
end

section
/-! SUPPORT. The obligation of 70_reset_and_hazards.md: the values of rule R120's table, which for the tasks are one idle
task per index below `NTASK`. -/

namespace Sys2Proof.Machine

theorem resetWith_task_length (P : Params) (level : Bool) : (State.resetWith P level).task.length = P.ntask :=
  List.length_replicate

theorem resetWith_task_getElem?_of_lt {P : Params} (level : Bool) {t : Nat} (ht : t < P.ntask) :
    (State.resetWith P level).task[t]? = some .idle :=
  List.getElem?_replicate_of_lt ht

end Sys2Proof.Machine

namespace Sys2Proof

open Machine

/-- Settles O1: every register of the table is a field of `State.resetWith` and holds its value by definition; the task
array is one idle task repeated. -/
theorem resetHoldsTheSpecsValues : Obligations.ResetHoldsTheSpecsValues := by
  intro P level
  refine ⟨State.resetWith P level, rfl, ?_⟩
  and_intros
  any_goals rfl
  · exact fun t ht => resetWith_task_getElem?_of_lt level ht
  · exact resetWith_task_length P level

end Sys2Proof
end

section
/-! SUPPORT. The obligation about the form of the memory list (20_memory.md section 1): who writes memory in a step, and
that each of the writes keeps the form. -/

namespace Sys2Proof.Machine

variable {i : Instr} {s s' : State}

theorem exec_memWf (hs : s.mem.Wf) (h : exec i s = .next s') : s'.mem.Wf := by
  rcases exec_effect h with rfl | h
  · exact hs
  · exact h.memWf hs

theorem step_memWf (hs : s.mem.Wf) (h : step s = .next s') : s'.mem.Wf :=
  step_keeps (P := fun s => s.mem.Wf) (fun _ _ hm => hm) (fun _ a v hm => Memory.write_wf hm a v)
    (fun _ _ _ => exec_memWf) hs h

end Sys2Proof.Machine

namespace Sys2Proof

open Machine

/-- Settles O55: an operation writes memory in the frame build only and a step adds the host's own byte; both are writes of
bytes, and a write keeps the form. -/
theorem stepKeepsMemoryCanonical : Obligations.StepKeepsMemoryCanonical :=
  fun _ _ => step_memWf

end Sys2Proof
end
